-- ==== Sys2Proof/Word.lean ====
section
/-! DEFINITION. The word types of CORE: the byte of its streams and buffers and the 32-bit word of its header and its register window. -/

namespace Sys2Proof

/-- A byte: 8 bits, bit 7 the most significant (R9, R54). -/
abbrev Byte := BitVec 8

/-- A 32-bit word: a frame header word (R70) or a register value (R32). -/
abbrev Word32 := BitVec 32

end Sys2Proof
end

