-- ==== Sys2Proof/Config.lean ====
section
/-! DEFINITION. What is fixed for one CORE: the parameters of R7, the ROM tables of R31, and the free values (constants without a body) that stand for what the spec leaves open. -/

namespace Sys2Proof

/-- LEFTOVER_RULE (R7): `tail` is the spec's value (R166), `shortfall` the selectable alternative (R167). -/
inductive LeftoverRule
  | tail
  | shortfall
  deriving DecidableEq, Repr

/-- The parameters of R7 that a model takes as arguments: the two OPEN ones and LEFTOVER_RULE.
They are carried in State so that every statement holds for every value of them; no instruction changes them. -/
structure Params where
  /-- WBUF_CAP, the capacity of the working buffer in bytes; `none` is unbounded (R7, R161). -/
  wbufCap : Option Nat
  /-- LEFTOVER_RULE (R7, R166, R167). -/
  leftoverRule : LeftoverRule
  /-- PCM_BUFFER_SIZE_RESET, what reset puts into PCM_BUFFER_SIZE (R7, R251). -/
  pcmBufferSizeReset : Word32
  deriving DecidableEq, Repr

/-- What the decode engine does in one DEC call (R168). `ok k` and `capacity` are the answers the spec gives a meaning;
`otherOutcome` is any other outcome of the engine (93 U10) and `wroteBuffer` an engine that wrote the working buffer
(R63, 93 U14): the spec gives these two no meaning and a model refuses them. -/
inductive DecAnswer
  | ok (k : Nat)
  | capacity
  | otherOutcome
  | wroteBuffer
  deriving DecidableEq, Repr

namespace Config

/-- SYNC_BYTE (R7, R72). UNVERIFIED: the value is general knowledge in the spec itself (assumption log 3). -/
def syncByte : Byte := 0xFF#8

/-- VL_MASK (R7, R73). UNVERIFIED (assumption log 3). -/
def vlMask : Byte := 0xFE#8

/-- VL_MATCH (R7, R73). UNVERIFIED (assumption log 3). -/
def vlMatch : Byte := 0xFA#8

/-- FS_MULT (R7, R122). -/
def fsMult : Nat := 144

/-- ID3_HDR_LEN (R7, R78). -/
def id3HdrLen : Nat := 10

/-- ID3_SIZE_OFF (R7; C2). -/
def id3SizeOff : Nat := 6

/-- The magic of an ID3v2 tag, "I", "D", "3" (R79). -/
def id3Magic : List Byte := [0x49#8, 0x44#8, 0x33#8]

/-- The tag byte of a CHUNK transaction (R81). -/
def chunkTag : Byte := 0x01#8

/-- The tag byte of an EOS transaction (R81). -/
def eosTag : Byte := 0x02#8

/-- BITRATE_KBPS (R120), dense, `none` being the reserved sentinel RSV. -/
def bitrateKbps : List (Option Nat) :=
  [none, some 32, some 40, some 48, some 56, some 64, some 80, some 96]
    ++ [some 112, some 128, some 160, some 192, some 224, some 256, some 320, none]

/-- SAMPLE_RATE_HZ (R121), `none` being RSV. -/
def sampleRateHz : List (Option Nat) := [some 44100, some 48000, some 32000, none]

/-- The unpadded column p = 0 of the frame-size table (R123), one row per bitrate index, one column per sample-rate index. -/
def frameSizeRom : List (List (Option Nat)) :=
  [[none, none, none, none],
    [some 104, some 96, some 144, none],
    [some 130, some 120, some 180, none],
    [some 156, some 144, some 216, none],
    [some 182, some 168, some 252, none],
    [some 208, some 192, some 288, none],
    [some 261, some 240, some 360, none],
    [some 313, some 288, some 432, none]]
    ++ [[some 365, some 336, some 504, none],
    [some 417, some 384, some 576, none],
    [some 522, some 480, some 720, none],
    [some 626, some 576, some 864, none],
    [some 731, some 672, some 1008, none],
    [some 835, some 768, some 1152, none],
    [some 1044, some 960, some 1440, none],
    [none, none, none, none]]

/-- The padded column p = 1 of the frame-size table (R123). -/
def frameSizeRomPadded : List (List (Option Nat)) :=
  [[none, none, none, none],
    [some 105, some 97, some 145, none],
    [some 131, some 121, some 181, none],
    [some 157, some 145, some 217, none],
    [some 183, some 169, some 253, none],
    [some 209, some 193, some 289, none],
    [some 262, some 241, some 361, none],
    [some 314, some 289, some 433, none]]
    ++ [[some 366, some 337, some 505, none],
    [some 418, some 385, some 577, none],
    [some 523, some 481, some 721, none],
    [some 627, some 577, some 865, none],
    [some 732, some 673, some 1009, none],
    [some 836, some 769, some 1153, none],
    [some 1045, some 961, some 1441, none],
    [none, none, none, none]]

/-- FREE VALUE: WBUF_CAP, OPEN in R7 (assumption log 8). -/
opaque wbufCap : Option Nat

/-- FREE VALUE: PCM_BUFFER_SIZE_RESET, OPEN in R7 (assumption log 8). -/
opaque pcmBufferSizeReset : BitVec 32

/-- FREE VALUE: the answer of the decode engine at a draw, `some k` for OK(k), `none` for CAPACITY (R168, 93 U8, U9; assumption log 4). -/
opaque decodeDraw : Nat → Option Nat

/-- FREE VALUE: the byte at a position of the segment that the interleave engine writes at a draw (R171, 93 U11; assumption log 5). -/
opaque segmentByte : Nat → Nat → BitVec 8

/-- FREE VALUE: what LEFTOVER_LEN holds when LEFTOVER has that many bytes and the number does not fit 32 bits (assumption log 6). -/
opaque wideLeftoverLen : Nat → BitVec 32

/-- FREE VALUE: what FAULT_OFF holds when the offset does not fit 32 bits (assumption log 7). -/
opaque wideFaultOff : Nat → BitVec 32

/-- The parameters State.reset carries: the OPEN ones free, LEFTOVER_RULE the spec's own value TAIL (R7, R166). -/
def params : Params :=
  { wbufCap := wbufCap, leftoverRule := .tail, pcmBufferSizeReset := pcmBufferSizeReset }

end Config

end Sys2Proof
end

