-- ==== Sys2Proof/Syntax.lean ====
section
/-! DEFINITION. The instructions of CORE: one constructor per row of spec/opcode_table.json, with the operands the row's encoding carries, and the lines a host issues (R86). -/

namespace Sys2Proof

/-- What follows the three magic bytes of a first chunk that begins with "ID3" (R78, R101): the other seven bytes of the
10-byte ID3v2 header, or fewer than seven bytes when the chunk is shorter than the header. -/
inductive TagTail
  /-- Version major and revision, flags, and the four synchsafe size bytes. -/
  | full (major revision flags s0 s1 s2 s3 : Byte)
  /-- A chunk of fewer than 10 bytes: what it holds after the magic. -/
  | short (bytes : List Byte)
  deriving DecidableEq, Repr

/-- The rows of the opcode table. -/
inductive Instr
  /-- HDR_BAD_BITRATE_0: sync and MPEG-1 Layer III, bitrate index 0 (R74). Operands: protection bit, sample-rate index,
  padding bit, private bit, byte 3. -/
  | hdrBadBitrate0 (prot : BitVec 1) (si : BitVec 2) (pad priv : BitVec 1) (b3 : Byte)
  /-- HDR_BAD_BITRATE_15: the same with bitrate index 15 (R74). -/
  | hdrBadBitrate15 (prot : BitVec 1) (si : BitVec 2) (pad priv : BitVec 1) (b3 : Byte)
  /-- HDR_BAD_SAMPLE_RATE: bitrate index 1 to 14, sample-rate index 3 (R75). -/
  | hdrBadSampleRate (prot : BitVec 1) (bi : BitVec 4) (pad priv : BitVec 1) (b3 : Byte)
  /-- HDR_FRAME_L3: a frame header, bitrate index 1 to 14, sample-rate index 0 to 2 (R140). -/
  | hdrFrameL3 (prot : BitVec 1) (bi : BitVec 4) (si : BitVec 2) (pad priv : BitVec 1) (b3 : Byte)
  /-- HDR_BAD_VERSION_LAYER: the sync byte, then a byte 1 other than 0xFA and 0xFB (R142). -/
  | hdrBadVersionLayer (b1 b2 b3 : Byte)
  /-- HDR_NOSYNC: byte 0 is not the sync byte (R141). -/
  | hdrNosync (b0 b1 b2 b3 : Byte)
  /-- TAG_PRESENT: the first chunk begins with "ID3" (R79, R101). -/
  | tagPresent (tail : TagTail)
  /-- TAG_ABSENT: the first chunk does not begin with "ID3" (R101). Operand: its first three bytes, or all of a shorter chunk. -/
  | tagAbsent (head : List Byte)
  /-- CHUNK: the next chunk of the stream (R81). -/
  | chunk (data : List Byte)
  /-- EOS: the chunk sequence is exhausted (R81). -/
  | eos
  /-- TXN_ILLEGAL: a tag byte other than 0x01 and 0x02 (R82). -/
  | txnIllegal (tag : Byte)
  /-- RD32: host register read (R211). -/
  | rd32 (a : Nat)
  /-- WR32: host register write (R212). -/
  | wr32 (a : Nat) (v : Word32)
  /-- RESET: the reset input (R250). -/
  | reset
  deriving DecidableEq, Repr

/-- A line of a host program (R86): stream bytes sent to the input port, a register access with its width in bits and its
byte offset, or the reset input between transactions. -/
inductive HostOp
  | send (bytes : List Byte)
  | read (bits a : Nat)
  | write (bits a : Nat) (v : Word32)
  | reset
  deriving DecidableEq, Repr

end Sys2Proof
end

