-- ==== Sys2Proof/WellFormed.lean ====
section
/-! DEFINITION. Which instructions the encodings of the spec can carry. -/

namespace Sys2Proof

/-- A bitrate index that selects a bitrate: 1 to 14 (R74). -/
def recognizedBitrate (bi : BitVec 4) : Bool := bi != 0#4 && bi != 15#4

/-- A sample-rate index that selects a sample rate: 0 to 2 (R75). -/
def recognizedSampleRate (si : BitVec 2) : Bool := si != 3#2

/-- An offset RD32 and WR32 may name: a multiple of 4 from 0x00 to 0x3C (R211, R212). -/
def windowOffset (a : Nat) : Bool := a % 4 == 0 && decide (a ≤ 0x3C)

/-- The operands of an instruction are ones its row's encoding carries. -/
def Instr.wellFormed : Instr → Bool
  | .hdrBadBitrate0 _ _ _ _ _ => true
  | .hdrBadBitrate15 _ _ _ _ _ => true
  | .hdrBadSampleRate _ bi _ _ _ => recognizedBitrate bi
  | .hdrFrameL3 _ bi si _ _ _ => recognizedBitrate bi && recognizedSampleRate si
  | .hdrBadVersionLayer b1 _ _ => b1 &&& Config.vlMask != Config.vlMatch
  | .hdrNosync b0 _ _ _ => b0 != Config.syncByte
  | .tagPresent (.full _ _ _ _ _ _ _) => true
  | .tagPresent (.short bytes) => decide (bytes.length < 7)
  | .tagAbsent head => decide (1 ≤ head.length) && decide (head.length ≤ 3) && head != Config.id3Magic
  | .chunk data => decide (data.length < 2 ^ 32)
  | .eos => true
  | .txnIllegal tag => tag != Config.chunkTag && tag != Config.eosTag
  | .rd32 a => windowOffset a
  | .wr32 a _ => windowOffset a
  | .reset => true

end Sys2Proof
end

