-- ==== Sys2Proof/Decode.lean ====
section
/-! DEFINITION. The decoder, total on any bytes and rejecting by name, and after it the encoder, both from the encoding tables of 30_encoding.md and spec/opcode_table.json. -/

namespace Sys2Proof

/-- Why bytes or a host line are no instruction. -/
inductive DecodeError
  /-- A header is exactly four bytes (R70). -/
  | headerLength
  /-- A chunk handed to the ID3v2 check holds at least one byte (R101). -/
  | emptyChunk
  /-- The bytes do not yet hold a whole transaction (R81). -/
  | incomplete
  /-- A register access that is not 32 bits wide (R35). -/
  | accessWidth (bits : Nat)
  /-- Stream bytes are no register access. -/
  | notAnAccess
  deriving DecidableEq, Repr

/-- Four bytes as one word, the first the most significant (R53, R70). -/
def be32 (b0 b1 b2 b3 : Byte) : Word32 := b0 ++ b1 ++ b2 ++ b3

/-- The four bytes of a word, the most significant first (R53). -/
def bytesOf32 (w : Word32) : List Byte :=
  [w.extractLsb' 24 8, w.extractLsb' 16 8, w.extractLsb' 8 8, w.extractLsb' 0 8]

/-- The three bytes of a 24-bit word, the most significant first (R53). -/
def bytesOf24 (w : BitVec 24) : List Byte :=
  [w.extractLsb' 16 8, w.extractLsb' 8 8, w.extractLsb' 0 8]

/-! The fields of the header word H (R71). -/

/-- Protection bit H[16]. -/
def hdrProt (h : Word32) : BitVec 1 := h.extractLsb' 16 1
/-- Bitrate index H[15:12]. -/
def hdrBitrateIndex (h : Word32) : BitVec 4 := h.extractLsb' 12 4
/-- Sample-rate index H[11:10]. -/
def hdrSampleRateIndex (h : Word32) : BitVec 2 := h.extractLsb' 10 2
/-- Padding bit H[9]. -/
def hdrPadding (h : Word32) : BitVec 1 := h.extractLsb' 9 1
/-- Private bit H[8]. -/
def hdrPrivate (h : Word32) : BitVec 1 := h.extractLsb' 8 1
/-- Byte 3, H[7:0]. -/
def hdrByte3 (h : Word32) : Byte := h.extractLsb' 0 8

/-- A row of the opcode table matches a header word: `(H & mask) == match` (R83). -/
def rowMatches (h mask pattern : Word32) : Bool := h &&& mask == pattern

/-- The header row of a word: the HDR32 rows of spec/opcode_table.json in ascending priority, the first match deciding (R83). -/
def decodeHdr (h : Word32) : Instr :=
  if rowMatches h 0xFFFEF000#32 0xFFFA0000#32 then
    .hdrBadBitrate0 (hdrProt h) (hdrSampleRateIndex h) (hdrPadding h) (hdrPrivate h) (hdrByte3 h)
  else if rowMatches h 0xFFFEF000#32 0xFFFAF000#32 then
    .hdrBadBitrate15 (hdrProt h) (hdrSampleRateIndex h) (hdrPadding h) (hdrPrivate h) (hdrByte3 h)
  else if rowMatches h 0xFFFE0C00#32 0xFFFA0C00#32 then
    .hdrBadSampleRate (hdrProt h) (hdrBitrateIndex h) (hdrPadding h) (hdrPrivate h) (hdrByte3 h)
  else if rowMatches h 0xFFFE0000#32 0xFFFA0000#32 then
    .hdrFrameL3 (hdrProt h) (hdrBitrateIndex h) (hdrSampleRateIndex h) (hdrPadding h) (hdrPrivate h) (hdrByte3 h)
  else if rowMatches h 0xFF000000#32 0xFF000000#32 then
    .hdrBadVersionLayer (h.extractLsb' 16 8) (h.extractLsb' 8 8) (hdrByte3 h)
  else
    .hdrNosync (h.extractLsb' 24 8) (h.extractLsb' 16 8) (h.extractLsb' 8 8) (hdrByte3 h)

/-- The header row of the bytes at a scan offset. -/
def decodeHdrBytes : List Byte → Except DecodeError Instr
  | [b0, b1, b2, b3] => .ok (decodeHdr (be32 b0 b1 b2 b3))
  | _ => .error .headerLength

/-- The seven bytes after the magic, or fewer (R78). -/
def decodeTagTail : List Byte → TagTail
  | major :: revision :: flags :: s0 :: s1 :: s2 :: s3 :: _ => .full major revision flags s0 s1 s2 s3
  | bytes => .short bytes

/-- The ID3_MAGIC24 row of a first chunk (R79, R101): TAG_PRESENT when it begins with "ID3", else TAG_ABSENT. -/
def decodeTag (c : List Byte) : Except DecodeError Instr :=
  if c = [] then .error .emptyChunk
  else if c.take 3 = Config.id3Magic then .ok (.tagPresent (decodeTagTail (c.drop 3)))
  else .ok (.tagAbsent (c.take 3))

/-- The payload of a CHUNK after its tag byte: a 4-byte big-endian length N, then N data bytes (R81). -/
def decodeChunk : List Byte → Except DecodeError (Instr × List Byte)
  | n0 :: n1 :: n2 :: n3 :: body =>
    if (be32 n0 n1 n2 n3).toNat ≤ body.length then
      .ok (.chunk (body.take (be32 n0 n1 n2 n3).toNat), body.drop (be32 n0 n1 n2 n3).toNat)
    else .error .incomplete
  | _ => .error .incomplete

/-- The first transaction of the bytes on the input port, and the bytes after it (R81, R82). An illegal transaction is its
tag byte alone (DEDUCED from its row's format TXN8; assumption log 12). -/
def decodeTxn : List Byte → Except DecodeError (Instr × List Byte)
  | [] => .error .incomplete
  | tag :: rest =>
    if tag = Config.chunkTag then decodeChunk rest
    else if tag = Config.eosTag then .ok (.eos, rest)
    else .ok (.txnIllegal tag, rest)

/-- The HOST rows: a register access of 32 bits is RD32 or WR32; another width has no meaning (R35). -/
def decodeAccess : HostOp → Except DecodeError Instr
  | .send _ => .error .notAnAccess
  | .read bits a => if bits = 32 then .ok (.rd32 a) else .error (.accessWidth bits)
  | .write bits a v => if bits = 32 then .ok (.wr32 a v) else .error (.accessWidth bits)
  | .reset => .ok .reset

/-- The encoded form of an instruction: bytes of the working buffer, of the first chunk or of the input port, or a host line. -/
inductive Encoded
  | hdr (bytes : List Byte)
  | tag (bytes : List Byte)
  | txn (bytes : List Byte)
  | access (op : HostOp)
  deriving DecidableEq, Repr

/-- The instruction an encoded form stands for, a transaction taking all its bytes. -/
def decode : Encoded → Except DecodeError Instr
  | .hdr bytes => decodeHdrBytes bytes
  | .tag bytes => decodeTag bytes
  | .txn bytes => (decodeTxn bytes).map Prod.fst
  | .access op => decodeAccess op

/-- The word of a header with the sync byte and MPEG-1 Layer III: H[31:17] = 0b111111111111101 (R71, R73), then the fields. -/
def layer3Word (prot : BitVec 1) (bi : BitVec 4) (si : BitVec 2) (pad priv : BitVec 1) (b3 : Byte) : Word32 :=
  0x7FFD#15 ++ prot ++ bi ++ si ++ pad ++ priv ++ b3

/-- The bytes of a tag header after its magic (R78). -/
def TagTail.bytes : TagTail → List Byte
  | .full major revision flags s0 s1 s2 s3 => [major, revision, flags, s0, s1, s2, s3]
  | .short bytes => bytes

/-- The words of a well-formed instruction, from the encoding tables of 30_encoding.md (R71, R78, R81) and the notation of R86. -/
def encode : Instr → Encoded
  | .hdrBadBitrate0 prot si pad priv b3 => .hdr (bytesOf32 (layer3Word prot 0#4 si pad priv b3))
  | .hdrBadBitrate15 prot si pad priv b3 => .hdr (bytesOf32 (layer3Word prot 15#4 si pad priv b3))
  | .hdrBadSampleRate prot bi pad priv b3 => .hdr (bytesOf32 (layer3Word prot bi 3#2 pad priv b3))
  | .hdrFrameL3 prot bi si pad priv b3 => .hdr (bytesOf32 (layer3Word prot bi si pad priv b3))
  | .hdrBadVersionLayer b1 b2 b3 => .hdr [Config.syncByte, b1, b2, b3]
  | .hdrNosync b0 b1 b2 b3 => .hdr [b0, b1, b2, b3]
  | .tagPresent tail => .tag (Config.id3Magic ++ tail.bytes)
  | .tagAbsent head => .tag head
  | .chunk data => .txn (Config.chunkTag :: bytesOf32 (BitVec.ofNat 32 data.length) ++ data)
  | .eos => .txn [Config.eosTag]
  | .txnIllegal tag => .txn [tag]
  | .rd32 a => .access (.read 32 a)
  | .wr32 a v => .access (.write 32 a v)
  | .reset => .access .reset

/-- The bytes of an opcode-table word of `nbits` bits as the hardware stores them, first byte most significant (R53, R54), every
bit above `nbits` 0: the 4 bytes of a header; the 3 magic bytes and 7 bytes 00 of an ID3v2 header; a tag byte, and for a
CHUNK the four bytes 00 of its length. Other widths are no row's. -/
def tableBytes (nbits w : Nat) : List Byte :=
  if nbits = 32 then bytesOf32 (BitVec.ofNat 32 w)
  else if nbits = 24 then bytesOf24 (BitVec.ofNat 24 w) ++ List.replicate 7 0#8
  else if nbits = 8 then
    if BitVec.ofNat 8 w = Config.chunkTag then [Config.chunkTag, 0#8, 0#8, 0#8, 0#8] else [BitVec.ofNat 8 w]
  else []

/-- What the decoder reads from a word of the opcode table. -/
def decodeTableWord (nbits w : Nat) : Option Instr :=
  (if nbits = 32 then decode (.hdr (tableBytes nbits w))
    else if nbits = 24 then decode (.tag (tableBytes nbits w))
    else decode (.txn (tableBytes nbits w))).toOption

end Sys2Proof
end

