-- ==== Sys2Proof/Machine/State.lean ====
section
/-! DEFINITION. The state of CORE as plain data: the registers of R20, the transient state of the operation in progress (R29), the parameters of R7, and the outside world as lists (the model's own fields); the reasons a step can stop; the state after reset (R251). -/

namespace Sys2Proof.Machine

/-- PHASE (R21). -/
inductive Phase
  | tagHead
  | tagSkip
  | demux
  | ended
  | faulted
  deriving DecidableEq, Repr

/-- The names of the fault codes (R220). -/
inductive FaultCode
  | none
  | malformedTag
  | unsupportedVersionLayer
  | unsupportedBitrate
  | unsupportedSampleRate
  | capacityDecode
  | capacityInterleave
  | capacityCursor
  | bufferOverflow
  | shortTagHeader
  | protocol
  deriving DecidableEq, Repr

/-- The stop reason of a scan (R37): fewer than 4 bytes left, or a non-sync byte. -/
inductive Stop
  | short
  | nosync
  deriving DecidableEq, Repr

/-- A segment (R171): its number of bytes, and which draw gives their contents (`segmentBytes`). -/
structure Segment where
  len : Nat
  draw : Nat
  deriving DecidableEq, Repr

/-- The scan in progress (R29, R163): the working buffer W, the scan offset off, the sizes recorded so far. -/
structure Scan where
  buf : List Byte
  off : Nat
  sizes : List Nat
  deriving DecidableEq, Repr

/-- A PROCESS after its scan (R29, R164 to R168): W, SIZES, STARTS, NC, TS, FITS, the stop reason, NEWLEFT, and the index of
the next DEC call. -/
structure Dispatching where
  buf : List Byte
  sizes : List Nat
  starts : List Nat
  nc : Nat
  ts : Nat
  fits : Bool
  stop : Stop
  newLeft : List Byte
  next : Nat
  deriving DecidableEq, Repr

/-- A transaction on the input port (R81, R82). -/
inductive Txn
  | chunk (data : List Byte)
  | eos
  | illegal (tag : Byte)
  deriving DecidableEq, Repr

/-- The operation in progress (R29). Between transactions it is `idle`. -/
inductive Op
  | idle
  /-- A transaction has been taken from the input port; nothing else of it has happened (R58). -/
  | received (txn : Txn)
  /-- The fault registers and PHASE are written; OUT(FAIL) is next (R222). -/
  | failing
  /-- PHASE is ENDED; OUT(END) is next (R204, R205, R206). -/
  | ending
  /-- A CHUNK taken in TAG_HEAD whose ID3v2 check is still to be made (R101, R103). -/
  | tagCheck (c : List Byte)
  /-- A PROCESS that scans (R163). -/
  | scan (p : Scan)
  /-- A PROCESS that makes its DEC calls and then its ILV call (R168, R170). -/
  | dispatch (d : Dispatching)
  /-- The ILV call has returned; OUT(SEGMENT) is next (R171). -/
  | output (seg : Segment) (newLeft : List Byte)
  /-- The segment is out; the commit is next (R172). -/
  | commit (newLeft : List Byte)
  deriving DecidableEq, Repr

/-- A message on the output port (R171, R204, R222; D21). -/
inductive OutMsg
  | segment (seg : Segment)
  | fail (code : BitVec 8)
  | endOfStream
  deriving DecidableEq, Repr

/-- The five arguments of a DEC call (R168): W, STARTS[i], SIZES[i], SAMPLE_CURSOR, PCM_BUFFER_SIZE. -/
structure DecCall where
  buf : List Byte
  start : Nat
  size : Nat
  cursor : Word32
  pcmSize : Word32
  deriving DecidableEq, Repr

/-- What CORE does on its ports: a DEC call, an ILV call with its sample count, a message, the value a register read returns. -/
inductive PortEvent
  | dec (call : DecCall)
  | ilv (count : Word32)
  | out (m : OutMsg)
  | readData (a : Nat) (v : Word32)
  deriving DecidableEq, Repr

/-- The state of CORE and of the world around it. -/
structure State where
  /-- PHASE (R21). -/
  phase : Phase
  /-- TAG_LEN (R22). -/
  tagLen : BitVec 29
  /-- TAG_REMAIN (R23). -/
  tagRemain : BitVec 29
  /-- LEFTOVER (R24). -/
  leftover : List Byte
  /-- LEFTOVER_LEN (R24). -/
  leftoverLen : Word32
  /-- SAMPLE_CURSOR (R25). -/
  sampleCursor : Word32
  /-- FAULT_CODE (R26). -/
  faultCode : BitVec 8
  /-- FAULT_CAT (R26). -/
  faultCat : BitVec 4
  /-- FAULT_OFF (R26). -/
  faultOff : Word32
  /-- FAULT_HDR (R26). -/
  faultHdr : Word32
  /-- PCM_BUFFER_SIZE (R27). -/
  pcmBufferSize : Word32
  /-- SEG_COUNT (R28). -/
  segCount : Word32
  /-- FRAME_COUNT (R28). -/
  frameCount : Word32
  /-- The transient state of the operation in progress (R29). -/
  op : Op
  /-- The parameters of R7. No instruction changes them. -/
  params : Params
  /-- The model's own: bytes on the input port that CORE has not taken, oldest first (DESIGN CHOICE, assumption log 10). -/
  rx : List Byte
  /-- The model's own: what the host does next, oldest first (DESIGN CHOICE, assumption log 10). -/
  host : List HostOp
  /-- The model's own: after how many of CORE's steps each coming reset input arrives, each counted from the one before it; while
  one is to come every small step of a transaction is a step (DESIGN CHOICE, assumption log 14). -/
  resets : List Nat
  /-- The model's own: the answers the decode engine will give, oldest first (DESIGN CHOICE, assumption log 4). -/
  decAnswers : List DecAnswer
  /-- The model's own: how many values were drawn from the external engines (DESIGN CHOICE, assumption log 4). -/
  draws : Nat
  /-- The model's own: what CORE did on its ports, newest first (DESIGN CHOICE, assumption log 20). -/
  log : List PortEvent
  deriving DecidableEq, Repr

/-- Why the MODEL stops. None of these is a fault of CORE: every fault of R220 is a next state in the phase FAULTED. `step`
raises none of them (assumption log 15). -/
inductive Fault
  /-- Raised by the meanings of the HDR rows in a state in which no PROCESS scans, where the spec has no such operation. Safe. -/
  | noScan
  /-- Raised by the meanings of the TAG rows in a state in which no ID3v2 check is to be made. Safe. -/
  | noTagCheck
  /-- Raised by the meanings of CHUNK, EOS, TXN_ILLEGAL, RD32 and WR32 in the middle of a transaction, where CORE takes none
  (R58). Safe. -/
  | transactionInProgress
  deriving DecidableEq, Repr

/-- What the model gives no meaning. -/
inductive Refusal
  /-- Raised by an arm of exec whose instruction has no meaning yet; no arm does. Safe. -/
  | notModelled (mnemonic : String)
  /-- Raised by RD32 and WR32 at an offset that is misaligned or outside the window: "a model refuses it" (R35, R211, R212). Safe. -/
  | registerAccess (a : Nat)
  /-- Raised by step for a register access that is not 32 bits wide (R35). Safe. -/
  | accessWidth (bits : Nat)
  /-- Raised by a DEC call whose outcome is neither OK(k) nor CAPACITY (93 U10: refuse). Safe. -/
  | decodeOutcome
  /-- Raised by a DEC call in which the engine wrote the working buffer (R63, 93 U14: refuse). Safe. -/
  | decodeWroteBuffer
  deriving DecidableEq, Repr

/-- What an instruction answers. -/
abbrev Answer := Host.Outcome State Fault Refusal

/-- The canonical form of LEFTOVER and of the working buffer: a sequence of bytes from offset 0 without holes, so that equal
contents are equal data, of at most WBUF_CAP bytes (R20, R50, R161; assumption log 1). -/
def Memory.wf (cap : Option Nat) (bytes : List Byte) : Bool :=
  match cap with
  | none => true
  | some k => decide (bytes.length ≤ k)

/-- The machine right after reset (R251), with nothing on its input port and no free value drawn. -/
def State.reset : State :=
  { phase := .tagHead
    tagLen := 0#29
    tagRemain := 0#29
    leftover := []
    leftoverLen := 0#32
    sampleCursor := 0#32
    faultCode := 0#8
    faultCat := 0#4
    faultOff := 0#32
    faultHdr := 0#32
    pcmBufferSize := Config.params.pcmBufferSizeReset
    segCount := 0#32
    frameCount := 0#32
    op := .idle
    params := Config.params
    rx := []
    host := []
    resets := []
    decAnswers := []
    draws := 0
    log := [] }

end Sys2Proof.Machine
end

