-- ==== Sys2Proof/Machine/Operands.lean ====
section
/-! DEFINITION. The operand forms of CORE's operations: reads of the working buffer, the header word, the synchsafe size field and ID3LEN, the frame-size lookup, and the registers of the window as a host reads them. -/

namespace Sys2Proof.Machine

/-- MemRead(W, off, n): `W[off:off+n]`, defined only when `off + n <= len(W)` (R10). -/
def memRead (buf : List Byte) (off n : Nat) : Option (List Byte) :=
  if off + n ≤ buf.length then some ((buf.drop off).take n) else none

/-- `s[a:b]`, half-open (R9). -/
def slice (bytes : List Byte) (a b : Nat) : List Byte := (bytes.drop a).take (b - a)

/-- The header word at an offset, when 4 bytes are left there (R70, R140). -/
def hdrAt (buf : List Byte) (off : Nat) : Option Word32 :=
  match memRead buf off 4 with
  | some [b0, b1, b2, b3] => some (be32 b0 b1 b2 b3)
  | _ => none

/-- `hdr(W, a)` of R160: the header word of a frame that starts at `a`. -/
def hdrWord (buf : List Byte) (a : Nat) : Word32 := (hdrAt buf a).getD 0#32

/-! ## The ID3v2 header -/

/-- `synchsafe28` (R100): the low 7 bits of four bytes, the first the most significant. Bit 7 of each is dropped. -/
def synchsafe28 (s0 s1 s2 s3 : Byte) : BitVec 28 :=
  s0.extractLsb' 0 7 ++ s1.extractLsb' 0 7 ++ s2.extractLsb' 0 7 ++ s3.extractLsb' 0 7

/-- The synchsafe body size in the first chunk, at offsets 6 to 9 (R78, R80; C2). -/
def tagBodySize (c : List Byte) : BitVec 28 :=
  synchsafe28 (c.getD Config.id3SizeOff 0#8) (c.getD (Config.id3SizeOff + 1) 0#8)
    (c.getD (Config.id3SizeOff + 2) 0#8) (c.getD (Config.id3SizeOff + 3) 0#8)

/-- ID3LEN (R101): the tag length, or the fault of a first chunk too short to decide or to hold the size field. -/
def id3Len (c : List Byte) : Except FaultCode Nat :=
  if 3 ≤ c.length ∧ c.take 3 = Config.id3Magic then
    if c.length < Config.id3HdrLen then .error .shortTagHeader
    else .ok ((tagBodySize c).toNat + Config.id3HdrLen)
  else if c.length < 3 ∧ c = Config.id3Magic.take c.length then .error .shortTagHeader
  else .ok 0

/-! ## The frame-size lookup -/

/-- BITRATE_KBPS[bi] (R120); `none` is RSV. -/
def bitrateKbps (bi : BitVec 4) : Option Nat := Config.bitrateKbps.getD bi.toNat none

/-- SAMPLE_RATE_HZ[si] (R121); `none` is RSV. -/
def sampleRateHz (si : BitVec 2) : Option Nat := Config.sampleRateHz.getD si.toNat none

/-- The content of `FRAME_SIZE[bi][si][p]` in the ROM of R123; `none` is a reserved cell. -/
def frameSizeCell (bi : BitVec 4) (si : BitVec 2) (p : BitVec 1) : Option Nat :=
  ((if p = 1#1 then Config.frameSizeRomPadded else Config.frameSizeRom).getD bi.toNat []).getD si.toNat none

/-- FSIZE (R122): the frame length in bytes, or the fault of a reserved index, the bitrate checked first. -/
def fsize (bi : BitVec 4) (si : BitVec 2) (p : BitVec 1) : Except FaultCode Nat :=
  match bitrateKbps bi with
  | none => .error .unsupportedBitrate
  | some kbps =>
    match sampleRateHz si with
    | none => .error .unsupportedSampleRate
    | some hz => .ok (Config.fsMult * (1000 * kbps) / hz + p.toNat)

/-! ## The header parser -/

/-- The result of HDRPARSE (R140): SHORT, NOSYNC, FRAME(size), or a fault with its header word. -/
inductive HdrResult
  | short
  | nosync
  | frame (size : Nat)
  | bad (code : FaultCode) (h : Word32)
  deriving DecidableEq, Repr

/-- HDRPARSE (R140), the tests in the order of R144. -/
def hdrParse (buf : List Byte) (off : Nat) : HdrResult :=
  match memRead buf off 4 with
  | some [b0, b1, b2, b3] =>
    if b0 ≠ Config.syncByte then .nosync
    else if b1 &&& Config.vlMask ≠ Config.vlMatch then .bad .unsupportedVersionLayer (be32 b0 b1 b2 b3)
    else
      match fsize (hdrBitrateIndex (be32 b0 b1 b2 b3)) (hdrSampleRateIndex (be32 b0 b1 b2 b3))
          (hdrPadding (be32 b0 b1 b2 b3)) with
      | .error code => .bad code (be32 b0 b1 b2 b3)
      | .ok size => .frame size
  | _ => .short

/-! ## The register window -/

/-- The encoding of PHASE in STATUS[2:0] (R21). -/
def phaseCode : Phase → BitVec 3
  | .tagHead => 0#3
  | .tagSkip => 1#3
  | .demux => 2#3
  | .ended => 3#3
  | .faulted => 4#3

/-- STATUS (R32, R33): [2:0] PHASE, [7:3] 0, [15:8] FAULT_CODE, [19:16] FAULT_CAT, [31:20] 0. -/
def statusWord (s : State) : Word32 := 0#12 ++ s.faultCat ++ s.faultCode ++ 0#5 ++ phaseCode s.phase

/-- The value a read returns at an offset of the window (R32). CTRL and the reserved offsets read 0 (R34, R35). -/
def readRegister (a : Nat) (s : State) : Word32 :=
  if a = 0x04 then statusWord s
  else if a = 0x08 then 0#3 ++ s.tagLen
  else if a = 0x0C then 0#3 ++ s.tagRemain
  else if a = 0x10 then s.leftoverLen
  else if a = 0x14 then s.sampleCursor
  else if a = 0x18 then s.faultOff
  else if a = 0x1C then s.faultHdr
  else if a = 0x20 then s.pcmBufferSize
  else if a = 0x24 then s.segCount
  else if a = 0x28 then s.frameCount
  else 0#32

/-! ## The bytes of a port event -/

/-- The bytes the interleave engine wrote (R171, 93 U11): `len` free bytes. -/
def segmentBytes (seg : Segment) : List Byte := (List.range seg.len).map (Config.segmentByte seg.draw)

/-- The byte range of W that a DEC call hands to the engine (R168). -/
def decFrame (call : DecCall) : List Byte := slice call.buf call.start (call.start + call.size)

end Sys2Proof.Machine
end

