-- ==== Sys2Proof/Machine/Flags.lean ====
section
/-! DEFINITION. The flags CORE computes (R37; PADDED is the field `hdrPadding` of the decoder) and what they decide: the capacity comparisons, FITS with the completed-frame count and the tail start (R164, R165), and the bytes carried (R166, R167). -/

namespace Sys2Proof.Machine

/-- `STARTS`: the prefix sums of the sizes from `at_` on, one entry more than the sizes (R164). -/
def startsFrom : Nat → List Nat → List Nat
  | at_, [] => [at_]
  | at_, z :: zs => at_ :: startsFrom (at_ + z) zs

/-- FITS (R165): the last recorded frame, if there is one, ends inside W. -/
def fitsFlag (len : Nat) (sizes : List Nat) : Bool := sizes.isEmpty || decide (sizes.sum ≤ len)

/-- NC, the number of complete frames (R165). -/
def completeCount (len : Nat) (sizes : List Nat) : Nat :=
  if fitsFlag len sizes then sizes.length else sizes.length - 1

/-- TS, the start of the tail: STARTS[NC] (R165). -/
def tailStart (len : Nat) (sizes : List Nat) : Nat :=
  (startsFrom 0 sizes).getD (completeCount len sizes) 0

/-- `leftover_of` of R160: `W[TS:L]` under TAIL (R166); under SHORTFALL the last `b` bytes of W, `b` the distance between
STARTS[n] and L (R167). -/
def leftoverOf (rule : LeftoverRule) (buf : List Byte) (sizes : List Nat) : List Byte :=
  match rule with
  | .tail => buf.drop (tailStart buf.length sizes)
  | .shortfall =>
    if fitsFlag buf.length sizes then buf.drop (buf.length - (buf.length - sizes.sum))
    else buf.drop (buf.length - (sizes.sum - buf.length))

/-- `len > WBUF_CAP` (R161). -/
def overCapacity (cap : Option Nat) (len : Nat) : Bool :=
  match cap with
  | none => false
  | some k => decide (k < len)

/-- `SAMPLE_CURSOR + k > 2^32 - 1` (R169). -/
def cursorOverflows (cursor : Word32) (k : Nat) : Bool := decide (2 ^ 32 - 1 < cursor.toNat + k)

/-- `4 * SAMPLE_CURSOR > PCM_BUFFER_SIZE` (R170). -/
def interleaveOverflows (cursor pcmSize : Word32) : Bool := decide (pcmSize.toNat < 4 * cursor.toNat)

end Sys2Proof.Machine
end

