-- ==== Sys2Proof/Machine/Ops.lean ====
section
/-! DEFINITION. The operations the meanings share: fault entry (R222) and reset (R250, R251), port events, the draws of the external engines, the parts of PROCESS (R160 to R172), TAGSKIP (R103), what taking a transaction does (R200 to R209), and one small step of the operation in progress. -/

namespace Sys2Proof.Machine

/-! ## Faults and reset -/

/-- FAULT_CODE of a fault (R220). -/
def faultCodeBits : FaultCode → BitVec 8
  | .none => 0x00#8
  | .malformedTag => 0x01#8
  | .unsupportedVersionLayer => 0x02#8
  | .unsupportedBitrate => 0x03#8
  | .unsupportedSampleRate => 0x04#8
  | .capacityDecode => 0x05#8
  | .capacityInterleave => 0x06#8
  | .capacityCursor => 0x07#8
  | .bufferOverflow => 0x08#8
  | .shortTagHeader => 0x09#8
  | .protocol => 0x0A#8

/-- FAULT_CAT of a fault (R220): 1 Malformed-tag, 2 Unsupported-format, 3 Capacity, 4 Implementation. -/
def faultCategory : FaultCode → BitVec 4
  | .none => 0#4
  | .malformedTag => 1#4
  | .unsupportedVersionLayer => 2#4
  | .unsupportedBitrate => 2#4
  | .unsupportedSampleRate => 2#4
  | .capacityDecode => 3#4
  | .capacityInterleave => 3#4
  | .capacityCursor => 3#4
  | .bufferOverflow => 4#4
  | .shortTagHeader => 4#4
  | .protocol => 4#4

/-- What FAULT_OFF holds for an offset; free when the offset does not fit 32 bits (DESIGN CHOICE, assumption log 7). -/
def faultOffBits (off : Nat) : Word32 :=
  if off < 2 ^ 32 then BitVec.ofNat 32 off else Config.wideFaultOff off

/-- What LEFTOVER_LEN holds for a length; free when the length does not fit 32 bits (DESIGN CHOICE, assumption log 6). -/
def leftoverLenBits (len : Nat) : Word32 :=
  if len < 2 ^ 32 then BitVec.ofNat 32 len else Config.wideLeftoverLen len

/-- A port event happens. -/
def emit (e : PortEvent) (s : State) : State := { s with log := e :: s.log }

/-- The writes of fault entry (R222), the transient state of the operation discarded (R29, R223); OUT(FAIL) is next. -/
def enterFault (code : FaultCode) (off : Nat) (h : Word32) (s : State) : State :=
  { s with
    faultCode := faultCodeBits code
    faultCat := faultCategory code
    faultOff := faultOffBits off
    faultHdr := h
    phase := .faulted
    op := .failing }

/-- The end of fault entry (R222): OUT(FAIL(code)) is sent and the transaction is over. -/
def sendFail (s : State) : State := { emit (.out (.fail s.faultCode)) s with op := .idle }

/-- `raise Fault(code, off, hdr)`, fault entry as a whole (R222). -/
def raise (code : FaultCode) (off : Nat) (h : Word32) (s : State) : State := sendFail (enterFault code off h s)

/-- A fault entry that has begun is ended (R222). -/
def finishFault (s : State) : State := if s.op = .failing then sendFail s else s

/-- Reset (R250, R251), the only return from a fault (R227): every register takes its reset value and the operation in progress
is abandoned. The world outside CORE and the parameters stay (assumption log 14). -/
def resetCore (s : State) : State :=
  { s with
    phase := .tagHead
    tagLen := 0#29
    tagRemain := 0#29
    leftover := []
    leftoverLen := 0#32
    sampleCursor := 0#32
    faultCode := 0#8
    faultCat := 0#4
    faultOff := 0#32
    faultHdr := 0#32
    pcmBufferSize := s.params.pcmBufferSizeReset
    segCount := 0#32
    frameCount := 0#32
    op := .idle }

/-! ## The external engines -/

/-- The next outcome of a DEC call: the next one of the inputs, or a free draw, OK(k) or CAPACITY, when they are used up (R168). -/
def nextAnswer (s : State) : DecAnswer :=
  match s.decAnswers with
  | a :: _ => a
  | [] =>
    match Config.decodeDraw s.draws with
    | some k => .ok k
    | none => .capacity

/-- The state after one outcome of the decode engine is drawn. -/
def dropAnswer (s : State) : State := { s with decAnswers := s.decAnswers.tail, draws := s.draws + 1 }

/-! ## PROCESS -/

/-- The start of PROCESS (R160, R161, R162): BUFFER_OVERFLOW, or W is assembled, SAMPLE_CURSOR cleared and the scan begun. -/
def beginProcess (c : List Byte) (s : State) : State :=
  if overCapacity s.params.wbufCap (s.leftover.length + c.length) then enterFault .bufferOverflow 0 0#32 s
  else { s with sampleCursor := 0#32, op := .scan { buf := s.leftover ++ c, off := 0, sizes := [] } }

/-- A frame of `size` bytes is recorded and the scan offset moves past it (R163). -/
def recordFrame (size : Nat) (p : Scan) (s : State) : State :=
  { s with op := .scan { p with off := p.off + size, sizes := p.sizes ++ [size] } }

/-- The scan stops: start offsets, completeness and the bytes to carry are decided (R164, R165, R166, R167). -/
def endScan (stop : Stop) (p : Scan) (s : State) : State :=
  { s with
    op := .dispatch
      { buf := p.buf
        sizes := p.sizes
        starts := startsFrom 0 p.sizes
        nc := completeCount p.buf.length p.sizes
        ts := tailStart p.buf.length p.sizes
        fits := fitsFlag p.buf.length p.sizes
        stop := stop
        newLeft := leftoverOf s.params.leftoverRule p.buf p.sizes
        next := 0 } }

/-- What one result of HDRPARSE does to the scan (R163). -/
def applyHdr (r : HdrResult) (p : Scan) (s : State) : State :=
  match r with
  | .short => endScan .short p s
  | .nosync => endScan .nosync p s
  | .frame size => recordFrame size p s
  | .bad code h => enterFault code p.off h s

/-- The start offset of the frame whose DEC call is next. -/
def nextStart (d : Dispatching) : Nat := d.starts.getD d.next 0

/-- The DEC call that is next (R168). -/
def nextCall (d : Dispatching) (s : State) : DecCall :=
  { buf := d.buf
    start := nextStart d
    size := d.sizes.getD d.next 0
    cursor := s.sampleCursor
    pcmSize := s.pcmBufferSize }

/-- OK(k): the cursor advances and FRAME_COUNT counts, or CAPACITY_CURSOR (R168, R169). -/
def acceptSamples (k : Nat) (d : Dispatching) (s : State) : State :=
  if cursorOverflows s.sampleCursor k then enterFault .capacityCursor (nextStart d) (hdrWord d.buf (nextStart d)) s
  else
    { s with
      sampleCursor := BitVec.ofNat 32 (s.sampleCursor.toNat + k)
      frameCount := s.frameCount + 1#32
      op := .dispatch { d with next := d.next + 1 } }

/-- One DEC call (R168, R169). -/
def decStep (d : Dispatching) (s : State) : Answer :=
  match nextAnswer s with
  | .ok k => .next (acceptSamples k d (dropAnswer (emit (.dec (nextCall d s)) s)))
  | .capacity =>
    .next (enterFault .capacityDecode (nextStart d) (hdrWord d.buf (nextStart d)) (dropAnswer (emit (.dec (nextCall d s)) s)))
  | .otherOutcome => .refused .decodeOutcome
  | .wroteBuffer => .refused .decodeWroteBuffer

/-- The ILV call (R170): CAPACITY_INTERLEAVE instead of the call, or the call and a segment of 4 * SAMPLE_CURSOR free bytes. -/
def interleave (d : Dispatching) (s : State) : State :=
  if interleaveOverflows s.sampleCursor s.pcmBufferSize then enterFault .capacityInterleave 0 0#32 s
  else
    { emit (.ilv s.sampleCursor) s with
      draws := s.draws + 1
      op := .output { len := 4 * s.sampleCursor.toNat, draw := s.draws } d.newLeft }

/-- OUT(SEGMENT(seg)) and SEG_COUNT (R171). -/
def emitSegment (seg : Segment) (newLeft : List Byte) (s : State) : State :=
  { emit (.out (.segment seg)) s with segCount := s.segCount + 1#32, op := .commit newLeft }

/-- The commit (R172), after which the transaction is over. -/
def commitLeftover (newLeft : List Byte) (s : State) : State :=
  { s with leftover := newLeft, leftoverLen := leftoverLenBits newLeft.length, op := .idle }

/-! ## TAGSKIP -/

/-- The part of TAGSKIP (R103) after R is known: the tag ends in this chunk and the excess goes to PROCESS, or the chunk is
wholly tag. TAG_REMAIN and PHASE are written before PROCESS begins (R104). -/
def skipTag (r : Nat) (c : List Byte) (s : State) : State :=
  if r < c.length then beginProcess (c.drop r) { s with tagRemain := 0#29, phase := .demux }
  else { s with tagRemain := BitVec.ofNat 29 (r - c.length), phase := .tagSkip, op := .idle }

/-- The ID3v2 check of the first chunk measured `r`: TAG_LEN is written, then the rest of TAGSKIP (R103). -/
def measuredTag (r : Nat) (c : List Byte) (s : State) : State :=
  skipTag r c { s with tagLen := BitVec.ofNat 29 r }

/-- What a result of ID3LEN does (R101, R103, R104). -/
def applyTag (r : Except FaultCode Nat) (c : List Byte) (s : State) : State :=
  match r with
  | .error code => enterFault code 0 0#32 s
  | .ok len => measuredTag len c s

/-! ## What taking a transaction does -/

/-- What a CHUNK that was taken begins (R200, R201, R202, R203, R207, R209). -/
def takeChunk (data : List Byte) (s : State) : State :=
  match s.phase with
  | .faulted => { s with op := .idle }
  | .ended => enterFault .protocol 0 0#32 s
  | .tagHead => if data = [] then enterFault .protocol 0 0#32 s else { s with op := .tagCheck data }
  | .tagSkip => if data = [] then enterFault .protocol 0 0#32 s else skipTag s.tagRemain.toNat data s
  | .demux => if data = [] then enterFault .protocol 0 0#32 s else beginProcess data s

/-- The stream ends: PHASE is ENDED, and OUT(END) is next (R204, R205, R206). LEFTOVER and LEFTOVER_LEN stay. -/
def endStream (s : State) : State := { s with phase := .ended, op := .ending }

/-- OUT(END) is sent and the transaction is over (R204, R205, R206). -/
def sendEnd (s : State) : State := { emit (.out .endOfStream) s with op := .idle }

/-- What an EOS that was taken does in each phase (R204 to R207). -/
def takeEos (s : State) : State :=
  match s.phase with
  | .faulted => { s with op := .idle }
  | .ended => enterFault .protocol 0 0#32 s
  | .tagHead => endStream s
  | .tagSkip => if 0 < s.tagRemain.toNat then enterFault .malformedTag 0 0#32 s else endStream s
  | .demux => endStream s

/-- What an illegal transaction that was taken does: PROTOCOL in any phase but FAULTED (R209). -/
def takeIllegal (s : State) : State :=
  match s.phase with
  | .faulted => { s with op := .idle }
  | .ended => enterFault .protocol 0 0#32 s
  | .tagHead => enterFault .protocol 0 0#32 s
  | .tagSkip => enterFault .protocol 0 0#32 s
  | .demux => enterFault .protocol 0 0#32 s

/-- What a transaction that was taken does first. No transaction is taken in FAULTED (R208). -/
def takeTransaction (txn : Txn) (s : State) : State :=
  match txn with
  | .chunk data => takeChunk data s
  | .eos => takeEos s
  | .illegal _ => takeIllegal s

/-! ## The operation in progress -/

/-- One small step of the operation in progress: what taking the transaction does, the ID3v2 check, one HDRPARSE, one DEC call, the
ILV call, an OUT message, or the commit, in the order of R60. -/
def advance (s : State) : Answer :=
  match s.op with
  | .idle => .next s
  | .received txn => .next (takeTransaction txn s)
  | .failing => .next (sendFail s)
  | .ending => .next (sendEnd s)
  | .tagCheck c => .next (applyTag (id3Len c) c s)
  | .scan p => .next (applyHdr (hdrParse p.buf p.off) p s)
  | .dispatch d => if d.next < d.nc then decStep d s else .next (interleave d s)
  | .output seg newLeft => .next (emitSegment seg newLeft s)
  | .commit newLeft => .next (commitLeftover newLeft s)

/-- At most `n` small steps, stopping between transactions. -/
def drive : Nat → State → Answer
  | 0, s => .next s
  | n + 1, s =>
    if s.op = .idle then .next s
    else
      match advance s with
      | .next s' => drive n s'
      | .fault r => .fault r
      | .refused r => .refused r

/-- A number of small steps that the transaction ends within (each recorded frame has 4 bytes of its own in W and takes one step of
the scan and one DEC call). -/
def driveFuel (txn : Txn) (s : State) : Nat :=
  match txn with
  | .chunk data => 2 * (s.leftover.length + data.length) + 12
  | .eos => 3
  | .illegal _ => 3

/-- A transaction as a whole (R58): it is taken and runs to its end. In FAULTED it is not taken and the state stays (R208). -/
def runTransaction (txn : Txn) (s : State) : Answer :=
  if s.phase = .faulted then .next s else drive (driveFuel txn s) { s with op := .received txn }

/-- CORE takes a transaction or a register access only between transactions (R58). -/
def betweenTransactions (s : State) (answer : Answer) : Answer :=
  if s.op = .idle then answer else .fault .transactionInProgress

/-- The effect of a header row on the scan in progress, a fault entry included to its end. -/
def onScan (s : State) (effect : Scan → State) : Answer :=
  match s.op with
  | .scan p => .next (finishFault (effect p))
  | _ => .fault .noScan

/-- The effect of a tag row on the chunk whose ID3v2 check is to be made, a fault entry included to its end. -/
def onTagCheck (s : State) (effect : List Byte → State) : Answer :=
  match s.op with
  | .tagCheck c => .next (finishFault (effect c))
  | _ => .fault .noTagCheck

end Sys2Proof.Machine
end

