-- ==== Sys2Proof/Machine/Header.lean ====
section
/-! DEFINITION. The meanings of the HDR32 rows: what the header at the scan offset does to the scan (R83, R140 to R144, R163). -/

namespace Sys2Proof.Machine

/-- HDR_BAD_BITRATE_0: fault UNSUPPORTED_BITRATE with the scan offset and the header word (R74, R122). -/
def execHdrBadBitrate0 (prot : BitVec 1) (si : BitVec 2) (pad priv : BitVec 1) (b3 : Byte) (s : State) : Answer :=
  onScan s fun p => enterFault .unsupportedBitrate p.off (layer3Word prot 0#4 si pad priv b3) s

/-- HDR_BAD_BITRATE_15: fault UNSUPPORTED_BITRATE (R74, R122). -/
def execHdrBadBitrate15 (prot : BitVec 1) (si : BitVec 2) (pad priv : BitVec 1) (b3 : Byte) (s : State) : Answer :=
  onScan s fun p => enterFault .unsupportedBitrate p.off (layer3Word prot 15#4 si pad priv b3) s

/-- HDR_BAD_SAMPLE_RATE: fault UNSUPPORTED_SAMPLE_RATE (R75, R122). -/
def execHdrBadSampleRate (prot : BitVec 1) (bi : BitVec 4) (pad priv : BitVec 1) (b3 : Byte) (s : State) : Answer :=
  onScan s fun p => enterFault .unsupportedSampleRate p.off (layer3Word prot bi 3#2 pad priv b3) s

/-- HDR_FRAME_L3: FRAME(FSIZE(bi, si, p)), recorded by the scan (R122, R140, R163). A reserved index, which no well-formed
HDR_FRAME_L3 holds, faults as FSIZE says. -/
def execHdrFrameL3 (prot : BitVec 1) (bi : BitVec 4) (si : BitVec 2) (pad priv : BitVec 1) (b3 : Byte) (s : State) : Answer :=
  onScan s fun p =>
    match fsize bi si pad with
    | .ok size => recordFrame size p s
    | .error code => enterFault code p.off (layer3Word prot bi si pad priv b3) s

/-- HDR_BAD_VERSION_LAYER: fault UNSUPPORTED_VERSION_LAYER (R142). -/
def execHdrBadVersionLayer (b1 b2 b3 : Byte) (s : State) : Answer :=
  onScan s fun p => enterFault .unsupportedVersionLayer p.off (be32 Config.syncByte b1 b2 b3) s

/-- HDR_NOSYNC: not a fault, the scan stops (R141, R163). None of the four bytes is used. -/
def execHdrNosync (_b0 _b1 _b2 _b3 : Byte) (s : State) : Answer :=
  onScan s fun p => endScan .nosync p s

end Sys2Proof.Machine
end

