-- ==== Sys2Proof/Machine/HostAccess.lean ====
section
/-! DEFINITION. The meanings of the HOST rows: register read, register write, reset (R211, R212, R250). -/

namespace Sys2Proof.Machine

/-- RD32 (R211): the value of R32 is returned to the host; nothing else changes. -/
def execRd32 (a : Nat) (s : State) : Answer :=
  betweenTransactions s
    (if windowOffset a then .next (emit (.readData a (readRegister a s)) s) else .refused (.registerAccess a))

/-- The register write of R212 at an offset of the window. -/
def writeRegister (a : Nat) (v : Word32) (s : State) : State :=
  if a = 0x00 ∧ v[0] = true then resetCore s
  else if a = 0x20 ∧ s.phase = .tagHead then { s with pcmBufferSize := v }
  else s

/-- WR32 (R212). -/
def execWr32 (a : Nat) (v : Word32) (s : State) : Answer :=
  betweenTransactions s (if windowOffset a then .next (writeRegister a v s) else .refused (.registerAccess a))

/-- RESET, the reset input (R250, R251): in any phase, and in the middle of a transaction, which it abandons. -/
def execReset (s : State) : Answer := .next (resetCore s)

end Sys2Proof.Machine
end

