-- ==== Sys2Proof/Machine/Tag.lean ====
section
/-! DEFINITION. The meanings of the ID3_MAGIC24 rows: the ID3v2 check of the first chunk and the TAGSKIP that follows it (R101, R103, R104). -/

namespace Sys2Proof.Machine

/-- TAG_PRESENT: the tag is S + 10 bytes long, or SHORT_TAG_HEADER when the chunk has fewer than 10 bytes (R101). The version and
flags bytes are not read (R105). -/
def execTagPresent (tail : TagTail) (s : State) : Answer :=
  onTagCheck s fun c =>
    match tail with
    | .full _ _ _ s0 s1 s2 s3 => measuredTag ((synchsafe28 s0 s1 s2 s3).toNat + Config.id3HdrLen) c s
    | .short _ => enterFault .shortTagHeader 0 0#32 s

/-- TAG_ABSENT: no tag, length 0, or SHORT_TAG_HEADER when the chunk is a beginning of the magic of 1 or 2 bytes (R101). -/
def execTagAbsent (head : List Byte) (s : State) : Answer :=
  onTagCheck s fun c =>
    if head.length < 3 ∧ head = Config.id3Magic.take head.length then enterFault .shortTagHeader 0 0#32 s
    else measuredTag 0 c s

end Sys2Proof.Machine
end

