-- ==== Sys2Proof/Machine/Transaction.lean ====
section
/-! DEFINITION. The meanings of the TXN8 rows: CHUNK, EOS and the illegal transactions, per phase (R200 to R209). -/

namespace Sys2Proof.Machine

/-- CHUNK: TAGSKIP in TAG_HEAD and TAG_SKIP, PROCESS in DEMUX, run to the end of the transaction (R58, R201, R202, R203). -/
def execChunk (data : List Byte) (s : State) : Answer := betweenTransactions s (runTransaction (.chunk data) s)

/-- EOS (R204 to R208). -/
def execEos (s : State) : Answer := betweenTransactions s (runTransaction .eos s)

/-- TXN_ILLEGAL (R82, R208, R209). -/
def execTxnIllegal (tag : Byte) (s : State) : Answer := betweenTransactions s (runTransaction (.illegal tag) s)

end Sys2Proof.Machine
end

