-- ==== Sys2Proof/Machine/Dispatch.lean ====
section
/-! DEFINITION. One arm per instruction. -/

namespace Sys2Proof.Machine

def exec (i : Instr) (s : State) : Host.Outcome State Fault Refusal :=
  match i with
  | .hdrBadBitrate0 prot si pad priv b3 => Sys2Proof.Machine.execHdrBadBitrate0 prot si pad priv b3 s
  | .hdrBadBitrate15 prot si pad priv b3 => Sys2Proof.Machine.execHdrBadBitrate15 prot si pad priv b3 s
  | .hdrBadSampleRate prot bi pad priv b3 => Sys2Proof.Machine.execHdrBadSampleRate prot bi pad priv b3 s
  | .hdrFrameL3 prot bi si pad priv b3 => Sys2Proof.Machine.execHdrFrameL3 prot bi si pad priv b3 s
  | .hdrBadVersionLayer b1 b2 b3 => Sys2Proof.Machine.execHdrBadVersionLayer b1 b2 b3 s
  | .hdrNosync b0 b1 b2 b3 => Sys2Proof.Machine.execHdrNosync b0 b1 b2 b3 s
  | .tagPresent tail => Sys2Proof.Machine.execTagPresent tail s
  | .tagAbsent head => Sys2Proof.Machine.execTagAbsent head s
  | .chunk data => Sys2Proof.Machine.execChunk data s
  | .eos => Sys2Proof.Machine.execEos s
  | .txnIllegal tag => Sys2Proof.Machine.execTxnIllegal tag s
  | .rd32 a => Sys2Proof.Machine.execRd32 a s
  | .wr32 a v => Sys2Proof.Machine.execWr32 a v s
  | .reset => Sys2Proof.Machine.execReset s

end Sys2Proof.Machine
end

