-- ==== Sys2Proof/Machine/Fetch.lean ====
section
/-! DEFINITION. What CORE does next: the header at the scan offset, the ID3v2 check, a small step of its own, a transaction on the input port, or the host's next line; and how a reset input that comes in the middle of a transaction lands (R58, R208, R250). -/

namespace Sys2Proof.Machine

/-- What is next. -/
inductive Selected
  /-- An instruction, with the state past its words. -/
  | run (i : Instr) (s : State)
  /-- A small step that is no row of the table: what a transaction that was taken does first, SHORT, a DEC call, the ILV call, an OUT
  message, the commit. -/
  | internal
  /-- Bytes the host sent arrive on the input port. -/
  | arrive (s : State)
  /-- Nothing CORE takes is there: it waits and holds all its state (R208, R230). -/
  | wait
  /-- A host line without a meaning. -/
  | refuse (r : Refusal)
  deriving DecidableEq, Repr

/-- The refusal of a host line that is no access of 32 bits (R35). `decodeAccess` gives such a line no other error. -/
def accessRefusal : DecodeError → Refusal
  | .accessWidth bits => .accessWidth bits
  | _ => .accessWidth 0

/-- The host's next line (R86). -/
def selectHost (s : State) : Selected :=
  match s.host with
  | [] => .wait
  | .send bytes :: rest => .arrive { s with rx := s.rx ++ bytes, host := rest }
  | op :: rest =>
    match decodeAccess op with
    | .ok i => .run i { s with host := rest }
    | .error e => .refuse (accessRefusal e)

/-- Between transactions: a whole transaction on the input port is taken, unless PHASE is FAULTED (R208); else the host's next line. -/
def selectIdle (s : State) : Selected :=
  if s.phase = .faulted then selectHost s
  else
    match decodeTxn s.rx with
    | .ok (i, rest) => .run i { s with rx := rest }
    | .error _ => selectHost s

/-- What is next: inside a transaction its own next step, between transactions the next input (R58, R60). -/
def select (s : State) : Selected :=
  match s.op with
  | .idle => selectIdle s
  | .received _ => .internal
  | .failing => .internal
  | .ending => .internal
  | .tagCheck c =>
    match decodeTag c with
    | .ok i => .run i s
    | .error _ => .internal
  | .scan p =>
    match hdrAt p.buf p.off with
    | some h => .run (decodeHdr h) s
    | none => .internal
  | .dispatch _ => .internal
  | .output _ _ => .internal
  | .commit _ => .internal

/-- What is next happens, an instruction as `run` has it. -/
def perform (run : Instr → State → Answer) (s : State) : Answer :=
  match select s with
  | .run i s' => run i s'
  | .internal => advance s
  | .arrive s' => .next s'
  | .wait => .next s
  | .refuse r => .refused r

/-- A step when no reset input is to come: an instruction is executed as a whole (R58). -/
def quietStep (s : State) : Answer := perform exec s

/-- The transaction an instruction of the TXN8 rows stands for. -/
def transactionOf : Instr → Option Txn
  | .hdrBadBitrate0 _ _ _ _ _ => none
  | .hdrBadBitrate15 _ _ _ _ _ => none
  | .hdrBadSampleRate _ _ _ _ _ => none
  | .hdrFrameL3 _ _ _ _ _ _ => none
  | .hdrBadVersionLayer _ _ _ => none
  | .hdrNosync _ _ _ _ => none
  | .tagPresent _ => none
  | .tagAbsent _ => none
  | .chunk data => some (.chunk data)
  | .eos => some .eos
  | .txnIllegal tag => some (.illegal tag)
  | .rd32 _ => none
  | .wr32 _ _ => none
  | .reset => none

/-- An instruction between transactions while a reset input is to come: a transaction is taken, and its small steps are the steps
that follow, so that the reset can land between any two of them (R250); a host access is executed. -/
def beginInstr (i : Instr) (s : State) : Answer :=
  match transactionOf i with
  | some txn => .next { s with op := .received txn }
  | none => exec i s

/-- A step while a reset input is to come: one small step of the operation in progress, or between transactions the next input. -/
def smallStep (s : State) : Answer := if s.op = .idle then perform beginInstr s else advance s

/-- An answer, with the waits of the reset inputs to come. -/
def withResets (resets : List Nat) (answer : Answer) : Answer :=
  match answer with
  | .next s => .next { s with resets := resets }
  | .fault r => .fault r
  | .refused r => .refused r

/-- One step: a reset input that is there acts at once, in any phase and inside any transaction, which it abandons (R250); one that is
to come is a step nearer; else the next thing. -/
def sequenceStep (s : State) : Answer :=
  match s.resets with
  | [] => quietStep s
  | 0 :: later => exec .reset { s with resets := later }
  | (k + 1) :: later => withResets (k :: later) (smallStep s)

/-- The state with an instruction of `nbits` bits placed where the next step fetches (assumption log 19): a header at offset 0 of
the working buffer of a scan, an ID3v2 header as the first chunk under its check, a transaction at the head of the input port.
No reset input is to come. -/
def placeWord (s : State) (nbits w : Nat) : State :=
  if nbits = 32 then
    { s with phase := .demux, op := .scan { buf := tableBytes nbits w, off := 0, sizes := [] }, resets := [] }
  else if nbits = 24 then
    { s with phase := .tagHead, op := .tagCheck (tableBytes nbits w), resets := [] }
  else
    { s with
      phase := if s.phase = .faulted then .tagHead else s.phase
      op := .idle
      rx := tableBytes nbits w
      resets := [] }

end Sys2Proof.Machine
end

