-- ==== Sys2Proof/Machine/Step.lean ====
section
/-! DEFINITION. The step of the machine and where the host places an instruction for it. -/

namespace Sys2Proof.Machine

/-- One step of CORE. -/
def step (s : State) : Host.Outcome State Fault Refusal := sequenceStep s

/-- The state with an instruction of the opcode table placed where the next step fetches it. -/
def State.withFetchWord (s : State) (nbits w : Nat) : State := placeWord s nbits w

end Sys2Proof.Machine
end

