-- ==== Sys2Proof/Safety.lean ====
section
/-! DEFINITION. What the states of CORE have in common, in the terms the statements use: the invariant of the registers and of the operation in progress, and the premise on the external decode engine. -/

namespace Sys2Proof.Machine

/-- The fault registers name a fault of R220. -/
def FaultRecorded (s : State) : Prop :=
  ∃ code : FaultCode, code ≠ .none ∧ s.faultCode = faultCodeBits code ∧ s.faultCat = faultCategory code

/-- The fault registers are clear (R26, R251). -/
def FaultClear (s : State) : Prop :=
  s.faultCode = 0#8 ∧ s.faultCat = 0#4 ∧ s.faultOff = 0#32 ∧ s.faultHdr = 0#32

/-- The operation in progress fits the phase (R29, R200), and the bytes it holds fit the working buffer (R161). -/
def OpInv (s : State) : Prop :=
  match s.op with
  | .idle => True
  | .received _ => s.phase ≠ .faulted
  | .failing => s.phase = .faulted
  | .ending => s.phase = .ended
  | .tagCheck c => s.phase = .tagHead ∧ c ≠ []
  | .scan p => s.phase = .demux ∧ Memory.wf s.params.wbufCap p.buf = true ∧ p.off = p.sizes.sum
  | .dispatch d => s.phase = .demux ∧ Memory.wf s.params.wbufCap d.newLeft = true ∧ d.next ≤ d.nc ∧ d.nc ≤ d.sizes.length
  | .output _ newLeft => s.phase = .demux ∧ Memory.wf s.params.wbufCap newLeft = true
  | .commit newLeft => s.phase = .demux ∧ Memory.wf s.params.wbufCap newLeft = true

/-- The invariant of CORE. -/
structure CoreInv (s : State) : Prop where
  /-- LEFTOVER fits WBUF_CAP (R20). -/
  leftoverFits : Memory.wf s.params.wbufCap s.leftover = true
  /-- LEFTOVER_LEN is the length of LEFTOVER where it fits the register's 32 bits (R24, R172). -/
  leftoverLenIsLength : s.leftover.length < 2 ^ 32 → s.leftoverLen.toNat = s.leftover.length
  /-- LEFTOVER_LEN of any length, a free value from 2^32 bytes on (assumption log 6). -/
  leftoverLenReads : s.leftoverLen = leftoverLenBits s.leftover.length
  /-- TAG_LEN is 0 or in 10 to 268435465 (R22, R102). -/
  tagLenRange : s.tagLen.toNat = 0 ∨ 10 ≤ s.tagLen.toNat ∧ s.tagLen.toNat ≤ 268435465
  /-- TAG_REMAIN never exceeds TAG_LEN (R23, R103). -/
  tagRemainBound : s.tagRemain.toNat ≤ s.tagLen.toNat
  /-- TAG_REMAIN is 0 outside TAG_SKIP, ENDED and FAULTED (R23). -/
  tagRemainZero : s.phase = .tagHead ∨ s.phase = .demux → s.tagRemain = 0#29
  /-- Before the first CHUNK nothing was measured (R21, R22). -/
  tagLenFresh : s.phase = .tagHead → s.tagLen = 0#29
  /-- LEFTOVER is empty before the first PROCESS (R24). -/
  leftoverFresh : s.phase = .tagHead ∨ s.phase = .tagSkip → s.leftover = []
  /-- The fault registers name a fault exactly in FAULTED (R26). -/
  faulted : s.phase = .faulted → FaultRecorded s
  /-- Outside FAULTED the fault registers are clear (R26). -/
  notFaulted : s.phase ≠ .faulted → FaultClear s
  /-- The operation in progress is one the phase allows. -/
  opOk : OpInv s

/-- Every outcome the decode engine will give is OK(k) or CAPACITY, the two the spec gives a meaning (R168, 93 U10, U14). -/
def engineSpecified (s : State) : Prop :=
  ∀ a ∈ s.decAnswers, a ≠ .otherOutcome ∧ a ≠ .wroteBuffer

/-- A run of transactions: the chunks one after another, stopping at the first that does not answer a next state. -/
def runChunks : List (List Byte) → State → Answer
  | [], s => .next s
  | c :: rest, s =>
    match exec (.chunk c) s with
    | .next s' => runChunks rest s'
    | .fault r => .fault r
    | .refused r => .refused r

end Sys2Proof.Machine
end

