-- ==== Sys2Proof/Certificates/Slice0/Obligations.lean ====
section
/-! DEFINITION. The statements for the provers, and the terms they are written in: the pseudocode of R160 and R103 as functions from a state between transactions to the state after the transaction, and the readings of the port log. -/

open Sys2Proof Sys2Proof.Machine

namespace Sys2Proof.Spec

/-- The scan loop of R160: the sizes recorded from `off` on, or the fault. Each round but the last reads a header of its own, so
`len(W) + 1` rounds are enough. -/
def scanLoop (w : List Byte) : Nat → Nat → List Nat → Except (FaultCode × Nat × Word32) (List Nat)
  | 0, _, sizes => .ok sizes
  | n + 1, off, sizes =>
    match hdrParse w off with
    | .short => .ok sizes
    | .nosync => .ok sizes
    | .frame z => scanLoop w n (off + z) (sizes ++ [z])
    | .bad code h => .error (code, off, h)

/-- The DEC loop of R160 over the complete frames, each a start offset and a size, and what follows it. -/
def decLoop (w : List Byte) : List (Nat × Nat) → State → (State → Answer) → Answer
  | [], s, after => after s
  | (a, z) :: rest, s, after =>
    let called := dropAnswer
      (emit (.dec { buf := w, start := a, size := z, cursor := s.sampleCursor, pcmSize := s.pcmBufferSize }) s)
    match nextAnswer s with
    | .ok k =>
      if 2 ^ 32 - 1 < s.sampleCursor.toNat + k then .next (raise .capacityCursor a (hdrWord w a) called)
      else
        decLoop w rest
          { called with
            sampleCursor := BitVec.ofNat 32 (s.sampleCursor.toNat + k)
            frameCount := s.frameCount + 1#32 }
          after
    | .capacity => .next (raise .capacityDecode a (hdrWord w a) called)
    | .otherOutcome => .refused .decodeOutcome
    | .wroteBuffer => .refused .decodeWroteBuffer

/-- What LEFTOVER_LEN reads for a length (R24, R172): the length, and a free value from 2^32 bytes on (assumption log 6). -/
def lenReads (n : Nat) : Word32 := if n < 2 ^ 32 then BitVec.ofNat 32 n else Config.wideLeftoverLen n

/-- The end of R160: the interleave check, ILV, OUT(SEGMENT), SEG_COUNT, the commit. -/
def finish (newLeft : List Byte) (s : State) : Answer :=
  if s.pcmBufferSize.toNat < 4 * s.sampleCursor.toNat then .next (raise .capacityInterleave 0 0#32 s)
  else
    .next
      { s with
        segCount := s.segCount + 1#32
        leftover := newLeft
        leftoverLen := lenReads newLeft.length
        draws := s.draws + 1
        log := .out (.segment { len := 4 * s.sampleCursor.toNat, draw := s.draws }) :: .ilv s.sampleCursor :: s.log }

/-- `PROCESS(c)`, the pseudocode of R160. -/
def process (c : List Byte) (s : State) : Answer :=
  if overCapacity s.params.wbufCap (s.leftover.length + c.length) then .next (raise .bufferOverflow 0 0#32 s)
  else
    match scanLoop (s.leftover ++ c) ((s.leftover ++ c).length + 1) 0 [] with
    | .error (code, off, h) => .next (raise code off h { s with sampleCursor := 0#32 })
    | .ok sizes =>
      decLoop (s.leftover ++ c)
        (((startsFrom 0 sizes).zip sizes).take (completeCount (s.leftover ++ c).length sizes))
        { s with sampleCursor := 0#32 }
        (finish (leftoverOf s.params.leftoverRule (s.leftover ++ c) sizes))

/-- `TAGSKIP(c)` of R103 after its first branch has set R. -/
def tagSkip (r : Nat) (c : List Byte) (s : State) : Answer :=
  if r < c.length then process (c.drop r) { s with tagRemain := 0#29, phase := .demux }
  else .next { s with tagRemain := BitVec.ofNat 29 (r - c.length), phase := .tagSkip }

/-- The DEC calls among port events that are newest first, in the order they were made. -/
def callsOf (events : List PortEvent) : List DecCall :=
  events.reverse.filterMap fun e =>
    match e with
    | .dec call => some call
    | .ilv _ => none
    | .out _ => none
    | .readData _ _ => none

/-- The frames handed to the decode port, in order. -/
def framesOf (events : List PortEvent) : List (List Byte) := (callsOf events).map decFrame

/-- The arguments of the DEC call for the frame whose turn it is (R168). -/
def callAt (d : Dispatching) (s : State) : DecCall :=
  { buf := d.buf
    start := d.starts.getD d.next 0
    size := d.sizes.getD d.next 0
    cursor := s.sampleCursor
    pcmSize := s.pcmBufferSize }

/-- A byte sequence that begins with a header HDRPARSE accepts and is exactly as long as that header's FSIZE (R177). -/
def WholeFrame (f : List Byte) : Prop := hdrParse f 0 = .frame f.length

/-- What a fault leaves of a state between transactions, when nothing but the fault entry happened (R222). -/
def faultedWith (code : BitVec 8) (cat : BitVec 4) (s : State) : State :=
  { s with
    faultCode := code
    faultCat := cat
    faultOff := 0#32
    faultHdr := 0#32
    phase := .faulted
    log := .out (.fail code) :: s.log }

/-- Every register of `t` has the value of R251's table, PCM_BUFFER_SIZE the parameter PCM_BUFFER_SIZE_RESET of `s`, and no operation
is in progress. -/
def AfterReset (s t : State) : Prop :=
  t.phase = .tagHead ∧ t.tagLen = 0#29 ∧ t.tagRemain = 0#29 ∧ t.leftover = [] ∧ t.leftoverLen = 0#32 ∧ t.sampleCursor = 0#32 ∧
  FaultClear t ∧ t.pcmBufferSize = s.params.pcmBufferSizeReset ∧ t.segCount = 0#32 ∧ t.frameCount = 0#32 ∧ t.op = .idle

/-- A reset comes in a step from `s` (R250, R34): the reset input is there, or the host's next line is the reset or a CTRL write with
bit 0 set. -/
def ResetComes (s : State) : Prop :=
  s.resets.head? = some 0 ∨
  (s.op = .idle ∧ (s.host.head? = some .reset ∨ ∃ v, s.host.head? = some (.write 32 0x00 v) ∧ v[0] = true))

/-- A number of steps. -/
def steps : Nat → State → Answer
  | 0, s => .next s
  | n + 1, s =>
    match step s with
    | .next t => steps n t
    | .fault r => .fault r
    | .refused r => .refused r

end Sys2Proof.Spec

open Sys2Proof.Spec

/-! ## Reset and the register window -/

/-- R251: after reset every register has its reset value, PCM_BUFFER_SIZE the parameter PCM_BUFFER_SIZE_RESET, CTRL reads 0, and
CORE waits for the first input. That an empty input port and a host without lines is a step that answers the same state is the model's
choice (assumption logs 10 and 19). -/
def Obligations.ResetLeavesSpecValues : Prop :=
  ∀ s : State, ∃ t, exec .reset s = .next t ∧
    t.phase = .tagHead ∧ t.tagLen = 0#29 ∧ t.tagRemain = 0#29 ∧ t.leftover = [] ∧ t.leftoverLen = 0#32 ∧
    t.sampleCursor = 0#32 ∧ t.faultCode = 0#8 ∧ t.faultCat = 0#4 ∧ t.faultOff = 0#32 ∧ t.faultHdr = 0#32 ∧
    t.pcmBufferSize = s.params.pcmBufferSizeReset ∧ t.segCount = 0#32 ∧ t.frameCount = 0#32 ∧ readRegister 0x00 t = 0#32 ∧
    t.op = .idle ∧ (s.rx = [] → s.host = [] → s.resets = [] → step t = .next t)

/-- R34: CTRL reads 0; a write with bit 0 set is the reset of R250 in every phase, whatever bits 31 to 1 are; a write with bit 0
clear has no effect. -/
def Obligations.SoftResetEqualsResetInput : Prop :=
  ∀ (s : State) (v : Word32), s.op = .idle →
    readRegister 0x00 s = 0#32 ∧
    (v[0] = true → exec (.wr32 0x00 v) s = exec .reset s) ∧
    (v[0] = false → exec (.wr32 0x00 v) s = .next s)

/-- R250: a reset input that is there acts at once, in any phase and in the middle of a transaction; nothing happens on the
ports. That the input port, the host's lines and the engine's answers stay is the model's choice (assumption log 14). -/
def Obligations.ResetInputActsAtOnce : Prop :=
  ∀ (s : State) (later : List Nat), s.resets = 0 :: later →
    step s = exec .reset { s with resets := later } ∧
    ∃ t, step s = .next t ∧ AfterReset s t ∧ t.log = s.log ∧ t.draws = s.draws ∧ t.decAnswers = s.decAnswers ∧ t.rx = s.rx ∧
      t.host = s.host ∧ t.params = s.params ∧ t.resets = later

/-- R250: a reset input that comes in the middle of a transaction, CHUNK, EOS or illegal, abandons it: what CORE had done on its ports
until then stays in the log, no further DEC or ILV call and no OUT message is made, and the state is that of R251. After `k + 1`
waits it comes when the transaction was taken and `k` small steps of it were made; until the second of them nothing is on the ports, so
an EOS abandoned there sends no END and an illegal transaction no FAIL. The small steps and the waits are the model's (assumption logs 2
and 14). -/
def Obligations.ResetAbandonsTransaction : Prop :=
  ∀ (s m : State) (i : Instr) (txn : Txn) (rest : List Byte) (k : Nat) (later : List Nat),
    s.op = .idle → s.phase ≠ .faulted → s.resets = (k + 1) :: later →
    decodeTxn s.rx = .ok (i, rest) → transactionOf i = some txn →
    drive k { s with rx := rest, op := .received txn } = .next m → m.op ≠ .idle →
    ∃ t, steps (k + 2) s = .next t ∧ AfterReset s t ∧ t.log = m.log ∧ t.draws = m.draws ∧ t.decAnswers = m.decAnswers ∧
      t.rx = rest ∧ t.resets = later ∧ (k ≤ 1 → t.log = s.log)

/-- R211 with the offsets of R32: RD32 at an offset of the window returns the register's value in any phase and changes nothing
of CORE; at any other offset it is refused. That the returned value is an event of the log is the model's (assumption log 20). -/
def Obligations.RegisterReadReturnsWindow : Prop :=
  ∀ (s : State) (a : Nat), s.op = .idle →
    (a % 4 = 0 → a ≤ 0x3C → ∃ v, exec (.rd32 a) s = .next { s with log := .readData a v :: s.log } ∧
      (a = 0x00 → v = 0#32) ∧
      (a = 0x04 → v.toNat = (phaseCode s.phase).toNat + s.faultCode.toNat * 2 ^ 8 + s.faultCat.toNat * 2 ^ 16) ∧
      (a = 0x08 → v.toNat = s.tagLen.toNat) ∧ (a = 0x0C → v.toNat = s.tagRemain.toNat) ∧
      (a = 0x10 → v = s.leftoverLen) ∧ (a = 0x14 → v = s.sampleCursor) ∧ (a = 0x18 → v = s.faultOff) ∧
      (a = 0x1C → v = s.faultHdr) ∧ (a = 0x20 → v = s.pcmBufferSize) ∧ (a = 0x24 → v = s.segCount) ∧
      (a = 0x28 → v = s.frameCount) ∧ (0x2C ≤ a → v = 0#32)) ∧
    (a % 4 ≠ 0 ∨ 0x3C < a → exec (.rd32 a) s = .refused (.registerAccess a))

/-- R212: WR32 resets, writes PCM_BUFFER_SIZE in TAG_HEAD, has no effect elsewhere, and is refused outside the window. -/
def Obligations.RegisterWriteEffects : Prop :=
  ∀ (s : State) (a : Nat) (v : Word32), s.op = .idle →
    (a % 4 ≠ 0 ∨ 0x3C < a → exec (.wr32 a v) s = .refused (.registerAccess a)) ∧
    (a = 0x00 → v[0] = true → exec (.wr32 a v) s = exec .reset s) ∧
    (a = 0x20 → s.phase = .tagHead → exec (.wr32 a v) s = .next { s with pcmBufferSize := v }) ∧
    (a % 4 = 0 → a ≤ 0x3C → ¬ (a = 0x00 ∧ v[0] = true) → ¬ (a = 0x20 ∧ s.phase = .tagHead) →
      exec (.wr32 a v) s = .next s)

/-- R35: reserved offsets read 0 and ignore writes; read-only registers ignore writes; an access that is misaligned, outside the
window or not 32 bits wide is refused. -/
def Obligations.AccessesWithoutMeaningRefused : Prop :=
  ∀ (s : State) (a bits : Nat) (v : Word32) (rest : List HostOp), s.op = .idle →
    (a % 4 = 0 → 0x2C ≤ a → a ≤ 0x3C → readRegister a s = 0#32 ∧ exec (.wr32 a v) s = .next s) ∧
    (a % 4 = 0 → 0x04 ≤ a → a ≤ 0x28 → a ≠ 0x20 → exec (.wr32 a v) s = .next s) ∧
    (a % 4 ≠ 0 ∨ 0x3C < a →
      exec (.rd32 a) s = .refused (.registerAccess a) ∧ exec (.wr32 a v) s = .refused (.registerAccess a)) ∧
    (bits ≠ 32 → s.resets = [] → s.rx = [] →
      (s.host = .read bits a :: rest → step s = .refused (.accessWidth bits)) ∧
      (s.host = .write bits a v :: rest → step s = .refused (.accessWidth bits)))

/-- R27, R212: PCM_BUFFER_SIZE changes only by a reset and by a host write of its register while PHASE is TAG_HEAD. That the host's
next line is the head of a list is the model's (assumption log 10). -/
def Obligations.PcmBufferSizeWriters : Prop :=
  ∀ s t : State, step s = .next t →
    t.pcmBufferSize = s.pcmBufferSize ∨ (ResetComes s ∧ AfterReset s t) ∨
    (s.op = .idle ∧ s.phase = .tagHead ∧ ∃ v rest, s.host = .write 32 0x20 v :: rest ∧ t.pcmBufferSize = v)

/-! ## Transactions and phases -/

/-- R208: in FAULTED no transaction is taken; the transaction waits and the state is unchanged. -/
def Obligations.FaultedTakesNoTransaction : Prop :=
  ∀ (s : State) (data : List Byte) (tag : Byte), s.op = .idle → s.phase = .faulted →
    exec (.chunk data) s = .next s ∧ exec .eos s = .next s ∧ exec (.txnIllegal tag) s = .next s ∧
    (s.resets = [] → s.host = [] → step s = .next s)

/-- R209: an illegal transaction raises PROTOCOL in any phase but FAULTED, before anything else, and nothing but the fault
registers and PHASE is written. -/
def Obligations.IllegalTransactionFaults : Prop :=
  ∀ (s : State) (tag : Byte), s.op = .idle → s.phase ≠ .faulted →
    exec (.txnIllegal tag) s = .next (faultedWith 0x0A#8 4#4 s) ∧
    exec (.chunk []) s = .next (faultedWith 0x0A#8 4#4 s)

/-- R207: any transaction in ENDED raises PROTOCOL. -/
def Obligations.TransactionAfterEndFaults : Prop :=
  ∀ (s : State) (data : List Byte) (tag : Byte), s.op = .idle → s.phase = .ended →
    exec (.chunk data) s = .next (faultedWith 0x0A#8 4#4 s) ∧ exec .eos s = .next (faultedWith 0x0A#8 4#4 s) ∧
    exec (.txnIllegal tag) s = .next (faultedWith 0x0A#8 4#4 s)

/-- R204: EOS in TAG_HEAD ends the stream with OUT(END), no segment, no fault. -/
def Obligations.EosInTagHead : Prop :=
  ∀ s : State, s.op = .idle → s.phase = .tagHead →
    exec .eos s = .next { s with phase := .ended, log := .out .endOfStream :: s.log }

/-- R205: EOS in TAG_SKIP raises MALFORMED_TAG when tag bytes are missing, else ends the stream. -/
def Obligations.EosInTagSkip : Prop :=
  ∀ s : State, s.op = .idle → s.phase = .tagSkip →
    (0 < s.tagRemain.toNat → exec .eos s = .next (faultedWith 0x01#8 1#4 s)) ∧
    (s.tagRemain.toNat = 0 → exec .eos s = .next { s with phase := .ended, log := .out .endOfStream :: s.log })

/-- R206: EOS in DEMUX ends the stream; LEFTOVER is not processed and keeps its value. -/
def Obligations.EosInDemux : Prop :=
  ∀ s : State, s.op = .idle → s.phase = .demux →
    exec .eos s = .next { s with phase := .ended, log := .out .endOfStream :: s.log }

/-- R200: from a state of the invariant PHASE changes only along the table's rows, or by a reset, which leaves every register at its
value of R251. -/
def Obligations.PhaseTransitions : Prop :=
  ∀ s t : State, CoreInv s → step s = .next t →
    t.phase = s.phase ∨
    (ResetComes s ∧ AfterReset s t) ∨
    (s.phase, t.phase) ∈
      [(Phase.tagHead, Phase.tagSkip), (.tagHead, .demux), (.tagHead, .ended), (.tagHead, .faulted), (.tagSkip, .demux),
        (.tagSkip, .ended), (.tagSkip, .faulted), (.demux, .ended), (.demux, .faulted), (.ended, .faulted)]

/-- R22: TAG_LEN is written by the first CHUNK, with the length ID3LEN measures on it, and otherwise only by a reset. The CHUNK is the
one whose ID3v2 check is made, or the one at the head of the input port in TAG_HEAD (the port is a list of bytes: assumption log 10). -/
def Obligations.TagLengthWrittenByFirstChunk : Prop :=
  ∀ s t : State, CoreInv s → step s = .next t →
    t.tagLen = s.tagLen ∨
    (s.phase = .tagHead ∧ ∃ c r,
      (s.op = .tagCheck c ∨ (s.op = .idle ∧ ∃ rest, decodeTxn s.rx = .ok (.chunk c, rest))) ∧
      id3Len c = .ok r ∧ t.tagLen.toNat = r) ∨
    (ResetComes s ∧ AfterReset s t)

/-! ## Faults -/

/-- R222: what fault entry writes, in every state, before OUT(FAIL) and with it; nothing else changes. FAULT_OFF is the offset where it
fits 32 bits (assumption log 7 for the rest). -/
def Obligations.FaultEntryWritesRecord : Prop :=
  ∀ (s : State) (off : Nat) (h : Word32), off < 2 ^ 32 →
    ∀ row ∈ [(FaultCode.malformedTag, 0x01#8, 1#4), (.unsupportedVersionLayer, 0x02#8, 2#4), (.unsupportedBitrate, 0x03#8, 2#4),
      (.unsupportedSampleRate, 0x04#8, 2#4), (.capacityDecode, 0x05#8, 3#4), (.capacityInterleave, 0x06#8, 3#4),
      (.capacityCursor, 0x07#8, 3#4), (.bufferOverflow, 0x08#8, 4#4), (.shortTagHeader, 0x09#8, 4#4), (.protocol, 0x0A#8, 4#4)],
    let written : State :=
      { s with
        faultCode := row.2.1
        faultCat := row.2.2
        faultOff := BitVec.ofNat 32 off
        faultHdr := h
        phase := .faulted
        op := .failing }
    enterFault row.1 off h s = written ∧
    raise row.1 off h s = { written with op := .idle, log := .out (.fail row.2.1) :: s.log }

/-- R208, R227: in FAULTED no step takes a transaction; every step keeps the fault registers and PHASE, sends no message and leaves
the waiting bytes on the input port, but for reset (the reset input, the host's reset line, or a CTRL write with bit 0 set), which is
the only exit and clears the fault registers. That a transaction waits as bytes on the port and waiting is a step are the model's
(assumption logs 10 and 13). -/
def Obligations.FaultedUntilReset : Prop :=
  ∀ s t : State, s.op = .idle → s.phase = .faulted → step s = .next t →
    (ResetComes s ∧ AfterReset s t ∧ t.log = s.log) ∨
    (t.phase = .faulted ∧ t.op = .idle ∧ t.faultCode = s.faultCode ∧ t.faultCat = s.faultCat ∧ t.faultOff = s.faultOff ∧
      t.faultHdr = s.faultHdr ∧ t.leftover = s.leftover ∧ t.leftoverLen = s.leftoverLen ∧ t.tagLen = s.tagLen ∧
      t.tagRemain = s.tagRemain ∧ t.sampleCursor = s.sampleCursor ∧ t.segCount = s.segCount ∧ t.frameCount = s.frameCount ∧
      t.pcmBufferSize = s.pcmBufferSize ∧ t.params = s.params ∧ (∃ more, t.rx = s.rx ++ more) ∧
      (t.log = s.log ∨ ∃ a v, t.log = .readData a v :: s.log))

/-- R223: a CHUNK in DEMUX that faults commits nothing and emits no segment; the DEC calls it made stay made, and FRAME_COUNT has
counted all of them, or all but the last. -/
def Obligations.FaultKeepsCarriedState : Prop :=
  ∀ (s t : State) (c : List Byte), s.op = .idle → s.phase = .demux → exec (.chunk c) s = .next t → t.phase = .faulted →
    t.leftover = s.leftover ∧ t.leftoverLen = s.leftoverLen ∧ t.segCount = s.segCount ∧ t.tagLen = s.tagLen ∧
    t.tagRemain = s.tagRemain ∧ t.pcmBufferSize = s.pcmBufferSize ∧ t.op = .idle ∧
    ∃ (calls : List DecCall) (n : Nat), t.log = .out (.fail t.faultCode) :: ((calls.map PortEvent.dec).reverse ++ s.log) ∧
      t.frameCount = s.frameCount + BitVec.ofNat 32 n ∧ n ≤ calls.length ∧ calls.length ≤ n + 1

/-- R226: a header fault anywhere in the working buffer is raised before any frame of that PROCESS is decoded. -/
def Obligations.BadHeaderFaultsBeforeDecoding : Prop :=
  ∀ (s t : State) (c : List Byte), s.op = .idle → s.phase = .demux → exec (.chunk c) s = .next t → t.phase = .faulted →
    t.faultCode = 0x02#8 ∨ t.faultCode = 0x03#8 ∨ t.faultCode = 0x04#8 →
    t.log = .out (.fail t.faultCode) :: s.log ∧ t.frameCount = s.frameCount ∧ t.sampleCursor = 0#32 ∧
    t.decAnswers = s.decAnswers

/-! ## The header rows and the frame-size lookup -/

/-- R122, R140, R163: HDR_FRAME_L3 records the size `floor(144 * 1000 * kbps / hz) + padding` and moves the scan offset past the
frame; nothing else changes. -/
def Obligations.FrameHeaderRecorded : Prop :=
  ∀ (s : State) (p : Scan) (prot : BitVec 1) (bi : BitVec 4) (si : BitVec 2) (pad priv : BitVec 1) (b3 : Byte)
    (kbps hz : Nat),
    s.op = .scan p → Config.bitrateKbps[bi.toNat]? = some (some kbps) → Config.sampleRateHz[si.toNat]? = some (some hz) →
    exec (.hdrFrameL3 prot bi si pad priv b3) s =
      .next { s with
        op := .scan
          { buf := p.buf
            off := p.off + (144 * (1000 * kbps) / hz + pad.toNat)
            sizes := p.sizes ++ [144 * (1000 * kbps) / hz + pad.toNat] } }

/-- R74, R75, R142: a reserved bitrate index, a reserved sample-rate index and a version or layer other than MPEG-1 Layer III raise
their faults with the scan offset and the header word; nothing else changes. -/
def Obligations.ReservedHeaderFaults : Prop :=
  ∀ (s : State) (p : Scan) (prot : BitVec 1) (bi : BitVec 4) (si : BitVec 2) (pad priv : BitVec 1) (b1 b2 b3 : Byte),
    s.op = .scan p → p.off < 2 ^ 32 →
    let faults := fun (code : BitVec 8) (h : Word32) =>
      ({ s with
        faultCode := code, faultCat := 2#4, faultOff := BitVec.ofNat 32 p.off, faultHdr := h
        phase := .faulted, op := .idle, log := .out (.fail code) :: s.log } : State)
    exec (.hdrBadBitrate0 prot si pad priv b3) s =
      .next (faults 0x03#8 (0x7FFD#15 ++ prot ++ 0#4 ++ si ++ pad ++ priv ++ b3)) ∧
    exec (.hdrBadBitrate15 prot si pad priv b3) s =
      .next (faults 0x03#8 (0x7FFD#15 ++ prot ++ 15#4 ++ si ++ pad ++ priv ++ b3)) ∧
    exec (.hdrBadSampleRate prot bi pad priv b3) s =
      .next (faults 0x04#8 (0x7FFD#15 ++ prot ++ bi ++ 3#2 ++ pad ++ priv ++ b3)) ∧
    exec (.hdrBadVersionLayer b1 b2 b3) s = .next (faults 0x02#8 (0xFF#8 ++ b1 ++ b2 ++ b3))

/-- R164, R165, R166: at the end of a scan, on a non-sync byte (HDR_NOSYNC) or with fewer than 4 bytes left, the last recorded frame is
complete unless its end exceeds the buffer length; NC, TS, STARTS and, under TAIL, the bytes to carry follow; nothing else changes
(`ShortfallRule` speaks of SHORTFALL). That the end of the scan is a step of its own is the model's (assumption log 2). -/
def Obligations.ScanEndDecidesCompleteFrames : Prop :=
  ∀ (s : State) (p : Scan) (b0 b1 b2 b3 : Byte), s.op = .scan p → s.params.leftoverRule = .tail →
    let n := p.sizes.length
    let nc := if 0 < n ∧ p.buf.length < p.sizes.sum then n - 1 else n
    let ts := (p.sizes.take nc).sum
    let ends := fun (stop : Stop) (d : Dispatching) =>
      d.buf = p.buf ∧ d.sizes = p.sizes ∧ d.starts.length = n + 1 ∧
      (∀ i, i ≤ n → d.starts.getD i 0 = (p.sizes.take i).sum) ∧
      d.nc = nc ∧ d.ts = ts ∧ (d.fits = true ↔ nc = n) ∧ d.stop = stop ∧ d.next = 0 ∧ d.newLeft = p.buf.drop ts
    (∃ d, exec (.hdrNosync b0 b1 b2 b3) s = .next { s with op := .dispatch d } ∧ ends .nosync d) ∧
    (s.resets = [] → p.buf.length < p.off + 4 → ∃ d, step s = .next { s with op := .dispatch d } ∧ ends .short d)

/-- R123: the frame-size table holds FSIZE at every recognised index; rows 0 and 15 fault UNSUPPORTED_BITRATE in every column, and
column 3 of the others UNSUPPORTED_SAMPLE_RATE. -/
def Obligations.FrameSizeTable : Prop :=
  ∀ (bi : BitVec 4) (si : BitVec 2) (p : BitVec 1),
    (fsize bi si p).toOption = frameSizeCell bi si p ∧
    (bi = 0#4 ∨ bi = 15#4 → ∃ code, fsize bi si p = .error code ∧ code = FaultCode.unsupportedBitrate) ∧
    (bi ≠ 0#4 → bi ≠ 15#4 → si = 3#2 → ∃ code, fsize bi si p = .error code ∧ code = FaultCode.unsupportedSampleRate)

/-- R124: the padding bit adds exactly 1. -/
def Obligations.PaddingAddsOneByte : Prop :=
  ∀ (bi : BitVec 4) (si : BitVec 2) (z : Nat), fsize bi si 0#1 = .ok z → fsize bi si 1#1 = .ok (z + 1)

/-- R125: every frame size is in 96 to 1441, so longer than the header; 96 is the size at 32 kbps, 48000 Hz, no padding, and 1441 the
one at 320 kbps, 32000 Hz, padded. -/
def Obligations.FrameSizeRange : Prop :=
  (∀ (bi : BitVec 4) (si : BitVec 2) (p : BitVec 1) (z : Nat), fsize bi si p = .ok z → 96 ≤ z ∧ z ≤ 1441) ∧
  fsize 1#4 1#2 0#1 = .ok 96 ∧ fsize 14#4 2#2 1#1 = .ok 1441

/-- R83: the rows of the opcode table, tried in ascending priority, and the tests of HDRPARSE in their order give the same result
for every header word at the scan offset. -/
def Obligations.HeaderRowsAgreeWithParser : Prop :=
  ∀ (s : State) (p : Scan) (h : Word32), s.op = .scan p → hdrAt p.buf p.off = some h →
    exec (decodeHdr h) s = .next (finishFault (applyHdr (hdrParse p.buf p.off) p s))

/-- R143: the result of HDRPARSE at a header word depends on H[31:17] and H[15:9] only: b1[0], b2[0] and b3 change neither a FRAME with
its size, nor NOSYNC, nor which fault is raised (a fault's FAULT_HDR is the whole word). -/
def Obligations.IgnoredHeaderBits : Prop :=
  ∀ (buf buf' : List Byte) (off off' : Nat) (h h' : Word32),
    hdrAt buf off = some h → hdrAt buf' off' = some h' →
    h.extractLsb' 17 15 = h'.extractLsb' 17 15 → h.extractLsb' 9 7 = h'.extractLsb' 9 7 →
    (∀ z, hdrParse buf off = .frame z → hdrParse buf' off' = .frame z) ∧
    (hdrParse buf off = .nosync → hdrParse buf' off' = .nosync) ∧
    (∀ code, hdrParse buf off = .bad code h → hdrParse buf' off' = .bad code h')

/-! ## The ID3v2 tag -/

/-- R100: `synchsafe28` is the low 7 bits of each byte as a base-128 number, at most 268435455; bit 7 does not contribute. -/
def Obligations.SynchsafeValue : Prop :=
  ∀ s0 s1 s2 s3 : Byte,
    (synchsafe28 s0 s1 s2 s3).toNat =
      s0.toNat % 128 * 2 ^ 21 + s1.toNat % 128 * 2 ^ 14 + s2.toNat % 128 * 2 ^ 7 + s3.toNat % 128 ∧
    (synchsafe28 s0 s1 s2 s3).toNat ≤ 268435455

/-- R102: the result of ID3LEN is 0, or S + 10 with S at most 268435455, so at most 268435465, and fits TAG_LEN; the body after the
10-byte header is not read. -/
def Obligations.TagLengthRange : Prop :=
  (∀ (c : List Byte) (r : Nat), id3Len c = .ok r →
    (c.take 3 ≠ [0x49#8, 0x44#8, 0x33#8] → r = 0) ∧ (c.take 3 = [0x49#8, 0x44#8, 0x33#8] → 10 ≤ r) ∧
    r ≤ 268435465 ∧ (BitVec.ofNat 29 r).toNat = r) ∧
  (∀ c c' : List Byte, c.take 10 = c'.take 10 → id3Len c = id3Len c')

/-- R101: the tag row of the first chunk does what ID3LEN and the rest of TAGSKIP say of it. -/
def Obligations.TagRowsAgreeWithId3Len : Prop :=
  ∀ (s : State) (c : List Byte) (i : Instr), s.op = .tagCheck c → decodeTag c = .ok i →
    exec i s = .next (finishFault (applyTag (id3Len c) c s))

/-- R101, R103: TAG_PRESENT with the size bytes s0 to s3 measures R = S + 10; a chunk wholly inside the tag leaves TAG_SKIP with
R - n bytes to come; else PROCESS of the excess begins in DEMUX, or raises BUFFER_OVERFLOW (R161) with TAG_LEN and TAG_REMAIN
written (R104). The version and flags bytes do not matter (R105). -/
def Obligations.TagPresentMeasures : Prop :=
  ∀ (s : State) (c : List Byte) (major revision flags s0 s1 s2 s3 : Byte), s.op = .tagCheck c →
    let r := (s0.toNat % 128 * 2 ^ 21 + s1.toNat % 128 * 2 ^ 14 + s2.toNat % 128 * 2 ^ 7 + s3.toNat % 128) + 10
    (c.length ≤ r →
      exec (.tagPresent (.full major revision flags s0 s1 s2 s3)) s =
        .next { s with
          tagLen := BitVec.ofNat 29 r, tagRemain := BitVec.ofNat 29 (r - c.length), phase := .tagSkip, op := .idle }) ∧
    (r < c.length → overCapacity s.params.wbufCap (s.leftover.length + (c.length - r)) = false →
      exec (.tagPresent (.full major revision flags s0 s1 s2 s3)) s =
        .next { s with
          tagLen := BitVec.ofNat 29 r, tagRemain := 0#29, phase := .demux, sampleCursor := 0#32
          op := .scan { buf := s.leftover ++ c.drop r, off := 0, sizes := [] } }) ∧
    (r < c.length → overCapacity s.params.wbufCap (s.leftover.length + (c.length - r)) = true →
      exec (.tagPresent (.full major revision flags s0 s1 s2 s3)) s =
        .next (faultedWith 0x08#8 4#4 { s with tagLen := BitVec.ofNat 29 r, tagRemain := 0#29, op := .idle }))

/-- R101, R104: a first chunk too short for the check raises SHORT_TAG_HEADER, and TAG_LEN is not written. -/
def Obligations.ShortTagHeaderFaults : Prop :=
  ∀ (s : State) (c bytes : List Byte), s.op = .tagCheck c →
    exec (.tagPresent (.short bytes)) s = .next (faultedWith 0x09#8 4#4 { s with op := .idle }) ∧
    exec (.tagAbsent [0x49#8]) s = .next (faultedWith 0x09#8 4#4 { s with op := .idle }) ∧
    exec (.tagAbsent [0x49#8, 0x44#8]) s = .next (faultedWith 0x09#8 4#4 { s with op := .idle })

/-- R101, R103: TAG_ABSENT measures 0, and the whole first chunk goes to PROCESS, or raises BUFFER_OVERFLOW (R161). -/
def Obligations.TagAbsentMeasuresZero : Prop :=
  ∀ (s : State) (c head : List Byte), s.op = .tagCheck c → c ≠ [] →
    head ≠ [0x49#8] → head ≠ [0x49#8, 0x44#8] → head ≠ [] →
    (overCapacity s.params.wbufCap (s.leftover.length + c.length) = false →
      exec (.tagAbsent head) s =
        .next { s with
          tagLen := 0#29, tagRemain := 0#29, phase := .demux, sampleCursor := 0#32
          op := .scan { buf := s.leftover ++ c, off := 0, sizes := [] } }) ∧
    (overCapacity s.params.wbufCap (s.leftover.length + c.length) = true →
      exec (.tagAbsent head) s =
        .next (faultedWith 0x08#8 4#4 { s with tagLen := 0#29, tagRemain := 0#29, op := .idle }))

/-! ## CHUNK and PROCESS -/

/-- R203, R160: a CHUNK in DEMUX, run by CORE's small steps, is PROCESS(c). LEFTOVER_LEN is the length of
LEFTOVER, and free from 2^32 bytes on (assumption log 6), as FAULT_OFF is (assumption log 7). -/
def Obligations.ChunkInDemuxIsProcess : Prop :=
  ∀ (s : State) (c : List Byte), s.op = .idle → s.phase = .demux → c ≠ [] → exec (.chunk c) s = process c s

/-- R201, R103: a CHUNK in TAG_HEAD is TAGSKIP with R = ID3LEN(c): SHORT_TAG_HEADER before TAG_LEN is written, or TAG_LEN, TAG_REMAIN
and PHASE written before the PROCESS of the excess (R104). -/
def Obligations.ChunkInTagHeadIsTagSkip : Prop :=
  ∀ (s : State) (c : List Byte), s.op = .idle → s.phase = .tagHead → c ≠ [] →
    (∀ code, id3Len c = .error code → exec (.chunk c) s = .next (raise code 0 0#32 s)) ∧
    (∀ r, id3Len c = .ok r → exec (.chunk c) s = tagSkip r c { s with tagLen := BitVec.ofNat 29 r })

/-- R202: a CHUNK in TAG_SKIP is TAGSKIP with R = TAG_REMAIN. -/
def Obligations.ChunkInTagSkipIsTagSkip : Prop :=
  ∀ (s : State) (c : List Byte), s.op = .idle → s.phase = .tagSkip → c ≠ [] →
    exec (.chunk c) s = tagSkip s.tagRemain.toNat c s

/-- R58: every CHUNK taken between transactions runs to its end, in every phase and with every outcome of the decode engine the
spec gives a meaning. -/
def Obligations.ChunkRunsToItsEnd : Prop :=
  ∀ (s : State) (c : List Byte), s.op = .idle → engineSpecified s → ∃ t, exec (.chunk c) s = .next t ∧ t.op = .idle

/-- R160, R165, R168, R170 to R172: a CHUNK in DEMUX of whole frames, with LEFTOVER empty, the working buffer large enough, the decode
engine answering OK(k) for each frame and the interleave destination large enough, completes: every frame is decoded once, in
order, the cursor is the sum, one segment is emitted and nothing is carried. -/
def Obligations.WholeFramesChunkCompletes : Prop :=
  ∀ (s : State) (frames : List (List Byte)) (ks : List Nat) (rest : List DecAnswer),
    s.op = .idle → s.phase = .demux → s.leftover = [] → frames ≠ [] → (∀ f ∈ frames, WholeFrame f) →
    overCapacity s.params.wbufCap frames.flatten.length = false →
    ks.length = frames.length → s.decAnswers = ks.map DecAnswer.ok ++ rest → 4 * ks.sum ≤ s.pcmBufferSize.toNat →
    ∃ t events, exec (.chunk frames.flatten) s = .next t ∧ t.phase = .demux ∧ t.op = .idle ∧ t.leftover = [] ∧
      t.leftoverLen = 0#32 ∧ t.sampleCursor.toNat = ks.sum ∧ t.frameCount = s.frameCount + BitVec.ofNat 32 frames.length ∧
      t.segCount = s.segCount + 1#32 ∧ t.decAnswers = rest ∧ t.tagLen = s.tagLen ∧ t.tagRemain = s.tagRemain ∧
      t.pcmBufferSize = s.pcmBufferSize ∧ t.log = events ++ s.log ∧ framesOf events = frames

/-- R176: a PROCESS that does not fault partitions its working buffer under TAIL: the frames given to DEC are contiguous from
offset 0, each is given once, and every other byte is carried. -/
def Obligations.WorkingBufferPartition : Prop :=
  ∀ (s t : State) (c : List Byte), s.op = .idle → s.phase = .demux → c ≠ [] → s.params.leftoverRule = .tail →
    exec (.chunk c) s = .next t → t.phase = .demux →
    ∃ events ts, t.log = events ++ s.log ∧ (∀ call ∈ callsOf events, call.buf = s.leftover ++ c) ∧
      (callsOf events).map (·.start) ++ [ts] = startsFrom 0 ((callsOf events).map (·.size)) ∧
      (framesOf events).flatten ++ t.leftover = s.leftover ++ c

/-- R170, R171, R60: a PROCESS that does not fault makes its DEC calls, then one ILV call with the accumulated count, then emits
one segment of 4 bytes per sample pair; SEG_COUNT counts the segment and FRAME_COUNT the calls. -/
def Obligations.OneSegmentPerProcess : Prop :=
  ∀ (s t : State) (c : List Byte), s.op = .idle → s.phase = .demux → c ≠ [] → exec (.chunk c) s = .next t → t.phase = .demux →
    ∃ (seg : Segment) (calls : List DecCall),
      t.log = .out (.segment seg) :: .ilv t.sampleCursor :: ((calls.map PortEvent.dec).reverse ++ s.log) ∧
      seg.len = 4 * t.sampleCursor.toNat ∧ (segmentBytes seg).length = 4 * t.sampleCursor.toNat ∧
      t.segCount = s.segCount + 1#32 ∧ t.frameCount = s.frameCount + BitVec.ofNat 32 calls.length

/-- R174: every recorded frame has its 4 header bytes inside the working buffer, so only the last can be incomplete, and when it
is, the tail under TAIL is 4 to 1440 bytes long. -/
def Obligations.OnlyLastFrameIncomplete : Prop :=
  ∀ (w : List Byte) (sizes : List Nat), scanLoop w (w.length + 1) 0 [] = .ok sizes →
    (∀ i, i < sizes.length → (sizes.take i).sum + 4 ≤ w.length) ∧
    (w.length < sizes.sum → 4 ≤ (leftoverOf .tail w sizes).length ∧ (leftoverOf .tail w sizes).length ≤ 1440)

/-- R175: once LEFTOVER begins with a non-sync byte, a CHUNK decodes nothing, emits an empty segment and is carried whole;
LEFTOVER_LEN is the length, free from 2^32 bytes on (assumption log 6). -/
def Obligations.NoResynchronisation : Prop :=
  ∀ (s : State) (b : Byte) (left c : List Byte), s.op = .idle → s.phase = .demux → c ≠ [] → s.leftover = b :: left →
    b ≠ 0xFF#8 → overCapacity s.params.wbufCap (s.leftover.length + c.length) = false →
    exec (.chunk c) s =
      .next { s with
        sampleCursor := 0#32
        segCount := s.segCount + 1#32
        leftover := s.leftover ++ c
        leftoverLen := lenReads (s.leftover ++ c).length
        draws := s.draws + 1
        log := .out (.segment { len := 0, draw := s.draws }) :: .ilv 0#32 :: s.log }

/-- R177: independence of chunking, unbounded buffer, rule TAIL. For a stream of whole frames and any division of a beginning of it
into non-empty chunks, if no chunk faults: the DEC calls so far are, in order, one for each frame whose last byte has arrived, and
LEFTOVER is the rest of what has arrived; when all has arrived every frame was called once and LEFTOVER is empty. -/
def Obligations.ChunkingIndependence : Prop :=
  ∀ (s t : State) (frames chunks : List (List Byte)) (future : List Byte),
    s.op = .idle → s.phase = .demux → s.leftover = [] → s.params.wbufCap = none → s.params.leftoverRule = .tail →
    (∀ f ∈ frames, WholeFrame f) → (∀ c ∈ chunks, c ≠ []) → chunks.flatten ++ future = frames.flatten →
    runChunks chunks s = .next t → t.phase = .demux →
    ∃ events j, t.log = events ++ s.log ∧ j ≤ frames.length ∧ framesOf events = frames.take j ∧
      (frames.take j).flatten ++ t.leftover = chunks.flatten ∧
      (j < frames.length → chunks.flatten.length < (frames.take (j + 1)).flatten.length) ∧
      (future = [] → framesOf events = frames ∧ t.leftover = [])

/-- R161: a CHUNK in DEMUX that does not fit WBUF_CAP with LEFTOVER raises BUFFER_OVERFLOW and does nothing else. -/
def Obligations.BufferOverflowFaults : Prop :=
  ∀ (s : State) (c : List Byte) (k : Nat), s.op = .idle → s.phase = .demux → c ≠ [] →
    s.params.wbufCap = some k → k < s.leftover.length + c.length →
    exec (.chunk c) s = .next (faultedWith 0x08#8 4#4 s)

/-- R167: the rule SHORTFALL carries the same bytes as TAIL when every recorded frame fits; when the last one does not, it carries
as many trailing bytes of W as the frame is short of, or all of W. -/
def Obligations.ShortfallRule : Prop :=
  ∀ (w : List Byte) (sizes : List Nat),
    (sizes.sum ≤ w.length → leftoverOf .shortfall w sizes = leftoverOf .tail w sizes) ∧
    (w.length < sizes.sum →
      leftoverOf .shortfall w sizes <:+ w ∧
      (leftoverOf .shortfall w sizes).length = min w.length (sizes.sum - w.length))

/-! ## The small steps of a PROCESS -/

/-- R168: a DEC call that is answered OK(k) passes W, STARTS[i], SIZES[i], the cursor and PCM_BUFFER_SIZE, adds k to the cursor and 1 to
FRAME_COUNT, and moves to the next frame. -/
def Obligations.DecCallAccumulates : Prop :=
  ∀ (s : State) (d : Dispatching) (k : Nat) (rest : List DecAnswer),
    s.op = .dispatch d → d.next < d.nc → s.resets = [] → s.decAnswers = .ok k :: rest → s.sampleCursor.toNat + k < 2 ^ 32 →
    ∃ t, step s = .next t ∧
      t = { s with
        sampleCursor := BitVec.ofNat 32 (s.sampleCursor.toNat + k)
        frameCount := s.frameCount + 1#32
        op := .dispatch { d with next := d.next + 1 }
        decAnswers := rest
        draws := s.draws + 1
        log := .dec (callAt d s) :: s.log } ∧
      t.sampleCursor.toNat = s.sampleCursor.toNat + k

/-- R160, R169, R222: a CAPACITY answer raises CAPACITY_DECODE, a sum above 2^32 - 1 raises CAPACITY_CURSOR, each with the frame's start
and header word; no further DEC call is made. That FRAME_COUNT does not count the call that overflows is assumption log 16, that
FAULT_HDR is the frame's header word is assumption log 17, and that OUT(FAIL) is a step of its own is assumption log 2. -/
def Obligations.DecCapacityFaults : Prop :=
  ∀ (s : State) (d : Dispatching) (a : DecAnswer) (rest : List DecAnswer),
    s.op = .dispatch d → d.next < d.nc → s.resets = [] → s.decAnswers = a :: rest → d.starts.getD d.next 0 < 2 ^ 32 →
    let written := fun (code : BitVec 8) =>
      ({ s with
        faultCode := code, faultCat := 3#4, faultOff := BitVec.ofNat 32 (d.starts.getD d.next 0)
        faultHdr := hdrWord d.buf (d.starts.getD d.next 0), phase := .faulted, op := .failing
        decAnswers := rest, draws := s.draws + 1
        log := .dec (callAt d s) :: s.log } : State)
    let faults := fun (code : BitVec 8) =>
      ({ written code with op := .idle, log := .out (.fail code) :: (written code).log } : State)
    (a = .capacity → step s = .next (written 0x05#8) ∧ step (written 0x05#8) = .next (faults 0x05#8)) ∧
    (∀ k, a = .ok k → 2 ^ 32 - 1 < s.sampleCursor.toNat + k →
      step s = .next (written 0x07#8) ∧ step (written 0x07#8) = .next (faults 0x07#8))

/-- R170, R171, R172: after the last DEC call, CAPACITY_INTERLEAVE when 4 * SAMPLE_CURSOR exceeds PCM_BUFFER_SIZE; else the ILV call, the
segment, and the commit, in three steps; LEFTOVER_LEN is then the length of LEFTOVER where it fits 32 bits (assumption log 6 for the
rest). The small steps are the model's (assumption log 2). -/
def Obligations.InterleaveSegmentCommit : Prop :=
  ∀ (s : State) (d : Dispatching), s.op = .dispatch d → d.nc ≤ d.next → s.resets = [] →
    (s.pcmBufferSize.toNat < 4 * s.sampleCursor.toNat →
      ∃ u, step s = .next u ∧ u.log = s.log ∧ u.phase = .faulted ∧ u.op = .failing ∧
        step u = .next (faultedWith 0x06#8 3#4 { s with op := .idle })) ∧
    (4 * s.sampleCursor.toNat ≤ s.pcmBufferSize.toNat →
      ∃ t u v, step s = .next t ∧ step t = .next u ∧ step u = .next v ∧
        t = { s with
          draws := s.draws + 1
          op := .output { len := 4 * s.sampleCursor.toNat, draw := s.draws } d.newLeft
          log := .ilv s.sampleCursor :: s.log } ∧
        u = { t with
          segCount := s.segCount + 1#32
          op := .commit d.newLeft
          log := .out (.segment { len := 4 * s.sampleCursor.toNat, draw := s.draws }) :: t.log } ∧
        v = { u with leftover := d.newLeft, leftoverLen := lenReads d.newLeft.length, op := .idle } ∧
        (v.leftover.length < 2 ^ 32 → v.leftoverLen.toNat = v.leftover.length))

/-- 93 U10, U14: a DEC call whose outcome is neither OK(k) nor CAPACITY, or in which the engine wrote the working buffer, has no
meaning in the model and is refused by name. -/
def Obligations.UnspecifiedEngineOutcomeRefused : Prop :=
  ∀ (s : State) (d : Dispatching) (a : DecAnswer) (rest : List DecAnswer),
    s.op = .dispatch d → d.next < d.nc → s.resets = [] → s.decAnswers = a :: rest →
    (a = .otherOutcome → step s = .refused .decodeOutcome) ∧ (a = .wroteBuffer → step s = .refused .decodeWroteBuffer)

/-- R58 (assumption log 15): an instruction executed where CORE is not at that point stops by name: a header row without a scan, a
tag row without an ID3v2 check to make, a transaction or a register access in the middle of a transaction. -/
def Obligations.InstructionsOutOfPlaceStop : Prop :=
  ∀ (s : State) (b0 b1 b2 b3 : Byte) (tail : TagTail) (data : List Byte) (a : Nat) (v : Word32),
    ((∀ p, s.op ≠ .scan p) →
      exec (decodeHdr (be32 b0 b1 b2 b3)) s = .fault .noScan) ∧
    ((∀ c, s.op ≠ .tagCheck c) →
      exec (.tagPresent tail) s = .fault .noTagCheck ∧ exec (.tagAbsent data) s = .fault .noTagCheck) ∧
    (s.op ≠ .idle →
      exec (.chunk data) s = .fault .transactionInProgress ∧ exec .eos s = .fault .transactionInProgress ∧
      exec (.txnIllegal b0) s = .fault .transactionInProgress ∧ exec (.rd32 a) s = .fault .transactionInProgress ∧
      exec (.wr32 a v) s = .fault .transactionInProgress)

/-! ## The step, the invariant and the encodings -/

/-- A step runs the decoded instruction: the header at the scan offset, the tag row of the first chunk, the transaction at the
head of the input port (its bytes taken), the host's register access (its line taken). No reset input is to come. That a waiting
transaction is taken before the host's next line, that an incomplete one waits, and that an illegal one takes one byte are the model's
(assumption logs 10, 11 and 12). -/
def Obligations.StepRunsDecodedInstruction : Prop :=
  ∀ s : State, s.resets = [] →
    (∀ p h, s.op = .scan p → hdrAt p.buf p.off = some h → step s = exec (decodeHdr h) s) ∧
    (∀ c i, s.op = .tagCheck c → decodeTag c = .ok i → step s = exec i s) ∧
    (∀ i rest, s.op = .idle → s.phase ≠ .faulted → decodeTxn s.rx = .ok (i, rest) →
      step s = exec i { s with rx := rest }) ∧
    (∀ op i rest, s.op = .idle → s.phase = .faulted ∨ (∃ e, decodeTxn s.rx = .error e) → s.host = op :: rest →
      decodeAccess op = .ok i → step s = exec i { s with host := rest })

/-- A word of the opcode table placed for the next step is what that step runs. -/
def Obligations.PlacedWordIsRun : Prop :=
  ∀ (s : State) (w : Nat) (i : Instr),
    (decodeTableWord 32 w = some i → step (s.withFetchWord 32 w) = exec i (s.withFetchWord 32 w)) ∧
    (decodeTableWord 24 w = some i → step (s.withFetchWord 24 w) = exec i (s.withFetchWord 24 w)) ∧
    (decodeTableWord 8 w = some i → step (s.withFetchWord 8 w) = exec i { s.withFetchWord 8 w with rx := [] })

/-- Every step keeps the invariant, in which LEFTOVER_LEN is the length of LEFTOVER below 2^32 bytes, and a free value from there on
(assumption log 6). -/
def Obligations.StepKeepsInvariant : Prop :=
  ∀ s t : State, CoreInv s → step s = .next t →
    CoreInv t ∧ (t.leftover.length < 2 ^ 32 → t.leftoverLen.toNat = t.leftover.length)

/-- The state after reset meets the invariant. -/
def Obligations.ResetMeetsInvariant : Prop := CoreInv State.reset

/-- What a CHUNK leaves unchanged in every phase: PCM_BUFFER_SIZE, the parameters, the input port, the host's lines, the reset inputs
to come; and the log only grows. -/
def Obligations.ChunkFrame : Prop :=
  ∀ (s t : State) (c : List Byte), exec (.chunk c) s = .next t →
    t.pcmBufferSize = s.pcmBufferSize ∧ t.params = s.params ∧ t.rx = s.rx ∧ t.host = s.host ∧ t.resets = s.resets ∧
    s.draws ≤ t.draws ∧ (∃ events, t.log = events ++ s.log) ∧ (∃ used, s.decAnswers = used ++ t.decAnswers)

/-- Decoding the encoded form of a well-formed instruction gives the instruction back, with every operand. -/
def Obligations.EncodeDecodeRoundTrip : Prop :=
  ∀ i : Instr, i.wellFormed = true → decode (encode i) = .ok i

/-- Every header word is some row's, and encoding that row gives the four bytes back: no bit is dropped. -/
def Obligations.HeaderBytesRoundTrip : Prop :=
  ∀ b0 b1 b2 b3 : Byte,
    encode (decodeHdr (be32 b0 b1 b2 b3)) = .hdr [b0, b1, b2, b3] ∧ (decodeHdr (be32 b0 b1 b2 b3)).wellFormed = true

/-- Words written out from the encodings of R71, R78 and R81 decode to the instructions they stand for. -/
def Obligations.SampleWordsDecode : Prop :=
  decode (.hdr [0xFF#8, 0xFB#8, 0x92#8, 0x44#8]) = .ok (.hdrFrameL3 1#1 9#4 0#2 1#1 0#1 0x44#8) ∧
  decode (.hdr [0xFF#8, 0xFA#8, 0xF5#8, 0x00#8]) = .ok (.hdrBadBitrate15 0#1 1#2 0#1 1#1 0x00#8) ∧
  decode (.tag [0x49#8, 0x44#8, 0x33#8, 0x04#8, 0x00#8, 0xC0#8, 0x00#8, 0x00#8, 0x07#8, 0x68#8]) =
    .ok (.tagPresent (.full 0x04#8 0x00#8 0xC0#8 0x00#8 0x00#8 0x07#8 0x68#8)) ∧
  decode (.txn [0x01#8, 0x00#8, 0x00#8, 0x00#8, 0x02#8, 0xAA#8, 0xBB#8]) = .ok (.chunk [0xAA#8, 0xBB#8]) ∧
  decode (.txn [0x02#8]) = .ok .eos ∧ decode (.txn [0x03#8]) = .ok (.txnIllegal 0x03#8)

/-- R250 (assumption logs 2 and 14): while a reset input is to come, a transaction is taken in a step of its own and each of its small
steps is a step; the message of a fault entry and the END of a stream are small steps of their own. -/
def Obligations.TransactionGoesStepByStep : Prop :=
  ∀ (s : State) (k : Nat) (later : List Nat), s.resets = (k + 1) :: later →
    (∀ i txn rest, s.op = .idle → s.phase ≠ .faulted → decodeTxn s.rx = .ok (i, rest) → transactionOf i = some txn →
      step s = .next { s with rx := rest, op := .received txn, resets := k :: later }) ∧
    (∀ txn, s.op = .received txn → step s = .next { takeTransaction txn s with resets := k :: later }) ∧
    (s.op = .failing →
      step s = .next { s with op := .idle, log := .out (.fail s.faultCode) :: s.log, resets := k :: later }) ∧
    (s.op = .ending → step s = .next { s with op := .idle, log := .out .endOfStream :: s.log, resets := k :: later }) ∧
    (∀ t, s.op ≠ .idle → advance s = .next t → step s = .next { t with resets := k :: later })
end

