-- ==== Sys2Proof/Laws/Encoding.lean ====
section
/-! SUPPORT. What the fields of a header word are, the masks of the opcode table as field tests, and the header decoder said once. -/

namespace Sys2Proof

theorem toNat_append_eq {a b : ℕ} (x : BitVec a) (y : BitVec b) : (x ++ y).toNat = x.toNat * 2 ^ b + y.toNat := by
  rw [BitVec.toNat_append, Nat.shiftLeft_eq, ← Nat.shiftLeft_eq, Nat.shiftLeft_add_eq_or_of_lt y.isLt, Nat.shiftLeft_eq]

theorem append_eq_append {a b : ℕ} {x x' : BitVec a} {y y' : BitVec b} : x ++ y = x' ++ y' ↔ x = x' ∧ y = y' := by
  constructor
  · intro h
    have e : x.toNat * 2 ^ b + y.toNat = x'.toNat * 2 ^ b + y'.toNat := by
      rw [← toNat_append_eq, ← toNat_append_eq, h]
    have hhi : ∀ (u : BitVec a) (v : BitVec b), (u.toNat * 2 ^ b + v.toNat) / 2 ^ b = u.toNat := fun u v => by
      rw [Nat.mul_comm, Nat.mul_add_div (by positivity), Nat.div_eq_of_lt v.isLt, Nat.add_zero]
    have hlo : ∀ (u : BitVec a) (v : BitVec b), (u.toNat * 2 ^ b + v.toNat) % 2 ^ b = v.toNat := fun u v => by
      rw [Nat.mul_comm, Nat.mul_add_mod, Nat.mod_eq_of_lt v.isLt]
    exact ⟨BitVec.eq_of_toNat_eq (by rw [← hhi x y, e, hhi]), BitVec.eq_of_toNat_eq (by rw [← hlo x y, e, hlo])⟩
  · rintro ⟨rfl, rfl⟩
    rfl

/-- A header word by its fields: H[31:17], H[16], H[15:12], H[11:10], H[9], H[8], H[7:0] (R71). -/
def fieldsWord (top : BitVec 15) (prot : BitVec 1) (bi : BitVec 4) (si : BitVec 2) (pad priv : BitVec 1) (b3 : Byte) : Word32 :=
  top ++ prot ++ bi ++ si ++ pad ++ priv ++ b3

theorem fieldsWord_fields (top : BitVec 15) (prot : BitVec 1) (bi : BitVec 4) (si : BitVec 2) (pad priv : BitVec 1) (b3 : Byte) :
    (fieldsWord top prot bi si pad priv b3).extractLsb' 17 15 = top ∧ hdrProt (fieldsWord top prot bi si pad priv b3) = prot ∧
      hdrBitrateIndex (fieldsWord top prot bi si pad priv b3) = bi ∧
      hdrSampleRateIndex (fieldsWord top prot bi si pad priv b3) = si ∧ hdrPadding (fieldsWord top prot bi si pad priv b3) = pad ∧
      hdrPrivate (fieldsWord top prot bi si pad priv b3) = priv ∧ hdrByte3 (fieldsWord top prot bi si pad priv b3) = b3 := by
  unfold hdrProt hdrBitrateIndex hdrSampleRateIndex hdrPadding hdrPrivate hdrByte3 fieldsWord
  refine ⟨?_, ?_, ?_, ?_, ?_, ?_, ?_⟩ <;> apply BitVec.eq_of_toNat_eq <;>
    simp only [toNat_append_eq, BitVec.extractLsb'_toNat, Nat.shiftRight_eq_div_pow] <;> omega

theorem fieldsWord_and (t t' : BitVec 15) (p p' : BitVec 1) (b b' : BitVec 4) (s s' : BitVec 2) (d d' e e' : BitVec 1) (f f' : Byte) :
    fieldsWord t p b s d e f &&& fieldsWord t' p' b' s' d' e' f' =
      fieldsWord (t &&& t') (p &&& p') (b &&& b') (s &&& s') (d &&& d') (e &&& e') (f &&& f') :=
  BitVec.and_append.trans (by
    rw [BitVec.and_append, BitVec.and_append, BitVec.and_append, BitVec.and_append, BitVec.and_append]
    rfl)

theorem fieldsWord_inj {t t' : BitVec 15} {p p' : BitVec 1} {b b' : BitVec 4} {s s' : BitVec 2} {d d' e e' : BitVec 1} {f f' : Byte} :
    fieldsWord t p b s d e f = fieldsWord t' p' b' s' d' e' f' ↔
      t = t' ∧ p = p' ∧ b = b' ∧ s = s' ∧ d = d' ∧ e = e' ∧ f = f' :=
  append_eq_append.trans (by
    rw [append_eq_append, append_eq_append, append_eq_append, append_eq_append, append_eq_append]
    tauto)

theorem be32_and (a a' b b' c c' d d' : Byte) :
    be32 a b c d &&& be32 a' b' c' d' = be32 (a &&& a') (b &&& b') (c &&& c') (d &&& d') :=
  BitVec.and_append.trans (by
    rw [BitVec.and_append, BitVec.and_append]
    rfl)

theorem be32_inj {a a' b b' c c' d d' : Byte} : be32 a b c d = be32 a' b' c' d' ↔ a = a' ∧ b = b' ∧ c = c' ∧ d = d' :=
  append_eq_append.trans (by
    rw [append_eq_append, append_eq_append]
    tauto)

theorem be32_bytes (b0 b1 b2 b3 : Byte) :
    (be32 b0 b1 b2 b3).extractLsb' 24 8 = b0 ∧ (be32 b0 b1 b2 b3).extractLsb' 16 8 = b1 ∧
      (be32 b0 b1 b2 b3).extractLsb' 8 8 = b2 ∧ (be32 b0 b1 b2 b3).extractLsb' 0 8 = b3 := by
  unfold be32
  refine ⟨?_, ?_, ?_, ?_⟩ <;> apply BitVec.eq_of_toNat_eq <;>
    simp only [toNat_append_eq, BitVec.extractLsb'_toNat, Nat.shiftRight_eq_div_pow] <;> omega

theorem bytesOf32_be32 (b0 b1 b2 b3 : Byte) : bytesOf32 (be32 b0 b1 b2 b3) = [b0, b1, b2, b3] := by
  obtain ⟨h0, h1, h2, h3⟩ := be32_bytes b0 b1 b2 b3
  simp [bytesOf32, h0, h1, h2, h3]

theorem be32_bytesOf32 (w : Word32) :
    be32 (w.extractLsb' 24 8) (w.extractLsb' 16 8) (w.extractLsb' 8 8) (w.extractLsb' 0 8) = w := by
  unfold be32
  apply BitVec.eq_of_toNat_eq
  simp only [toNat_append_eq, BitVec.extractLsb'_toNat, Nat.shiftRight_eq_div_pow]
  have := w.isLt
  omega

/-- The header word of four bytes, by its fields. -/
theorem be32_eq_fieldsWord (b0 b1 b2 b3 : Byte) :
    be32 b0 b1 b2 b3 =
      fieldsWord (b0 ++ b1.extractLsb' 1 7) (b1.extractLsb' 0 1) (b2.extractLsb' 4 4) (b2.extractLsb' 2 2) (b2.extractLsb' 1 1)
        (b2.extractLsb' 0 1) b3 := by
  apply BitVec.eq_of_toNat_eq
  unfold fieldsWord be32
  simp only [toNat_append_eq, BitVec.extractLsb'_toNat, Nat.shiftRight_eq_div_pow]
  omega

/-- The masks of the layer-III rows as tests of fields. -/
theorem rowMatches_layer3 (t : BitVec 15) (p : BitVec 1) (b : BitVec 4) (s : BitVec 2) (d e : BitVec 1) (f : Byte) :
    (rowMatches (fieldsWord t p b s d e f) 0xFFFEF000#32 0xFFFA0000#32 = true ↔ t = 0x7FFD#15 ∧ b = 0#4) ∧
      (rowMatches (fieldsWord t p b s d e f) 0xFFFEF000#32 0xFFFAF000#32 = true ↔ t = 0x7FFD#15 ∧ b = 15#4) ∧
      (rowMatches (fieldsWord t p b s d e f) 0xFFFE0C00#32 0xFFFA0C00#32 = true ↔ t = 0x7FFD#15 ∧ s = 3#2) ∧
      (rowMatches (fieldsWord t p b s d e f) 0xFFFE0000#32 0xFFFA0000#32 = true ↔ t = 0x7FFD#15) := by
  have m1 : 0xFFFEF000#32 = fieldsWord 0x7FFF#15 0#1 15#4 0#2 0#1 0#1 0#8 := by decide
  have m2 : 0xFFFA0000#32 = fieldsWord 0x7FFD#15 0#1 0#4 0#2 0#1 0#1 0#8 := by decide
  have m3 : 0xFFFAF000#32 = fieldsWord 0x7FFD#15 0#1 15#4 0#2 0#1 0#1 0#8 := by decide
  have m4 : 0xFFFE0C00#32 = fieldsWord 0x7FFF#15 0#1 0#4 3#2 0#1 0#1 0#8 := by decide
  have m5 : 0xFFFA0C00#32 = fieldsWord 0x7FFD#15 0#1 0#4 3#2 0#1 0#1 0#8 := by decide
  have m6 : 0xFFFE0000#32 = fieldsWord 0x7FFF#15 0#1 0#4 0#2 0#1 0#1 0#8 := by decide
  have ones : ∀ {n : ℕ} (x : BitVec n), x &&& BitVec.allOnes n = x := fun x => by simp
  have f15 : ∀ x : BitVec 15, x &&& 0x7FFF#15 = x := ones
  have f4 : ∀ x : BitVec 4, x &&& 15#4 = x := ones
  have f2 : ∀ x : BitVec 2, x &&& 3#2 = x := ones
  unfold rowMatches
  simp only [beq_iff_eq]
  refine ⟨?_, ?_, ?_, ?_⟩
  · rw [m1, m2, fieldsWord_and, fieldsWord_inj]; simp only [f15, f4, BitVec.and_zero, true_and, and_true]
  · rw [m1, m3, fieldsWord_and, fieldsWord_inj]; simp only [f15, f4, BitVec.and_zero, true_and, and_true]
  · rw [m4, m5, fieldsWord_and, fieldsWord_inj]; simp only [f15, f2, BitVec.and_zero, true_and, and_true]
  · rw [m6, m2, fieldsWord_and, fieldsWord_inj]; simp only [f15, BitVec.and_zero, and_true]

/-- The mask of HDR_BAD_VERSION_LAYER as a test of byte 0. -/
theorem rowMatches_sync (b0 b1 b2 b3 : Byte) :
    rowMatches (be32 b0 b1 b2 b3) 0xFF000000#32 0xFF000000#32 = true ↔ b0 = 0xFF#8 := by
  have m : 0xFF000000#32 = be32 0xFF#8 0#8 0#8 0#8 := by decide
  have f8 : ∀ x : Byte, x &&& 0xFF#8 = x := by decide +kernel
  unfold rowMatches
  rw [beq_iff_eq, m, be32_and, be32_inj]
  simp only [f8, BitVec.and_zero, and_true]

/-- H[31:17] of the layer-III rows as the two byte tests of R72 and R73. -/
theorem layer3_top (b0 b1 : Byte) :
    (b0 ++ b1.extractLsb' 1 7 : BitVec 15) = 0x7FFD#15 ↔ b0 = Config.syncByte ∧ b1 &&& Config.vlMask = Config.vlMatch := by
  have h : ∀ b : Byte, b.extractLsb' 1 7 = 0x7D#7 ↔ b &&& 0xFE#8 = 0xFA#8 := by decide +kernel
  rw [show 0x7FFD#15 = 0xFF#8 ++ 0x7D#7 by decide, append_eq_append, h]
  rfl

/-- The first two bytes are the sync byte and MPEG-1 Layer III (R72, R73). -/
def IsLayer3 (b0 b1 : Byte) : Prop := b0 = Config.syncByte ∧ b1 &&& Config.vlMask = Config.vlMatch

/-- What the header decoder gives for four bytes, by the tests of R72 to R75. -/
theorem decodeHdr_be32 (b0 b1 b2 b3 : Byte) :
    (IsLayer3 b0 b1 ∧ b2.extractLsb' 4 4 = 0#4 ∧
      decodeHdr (be32 b0 b1 b2 b3) =
        .hdrBadBitrate0 (b1.extractLsb' 0 1) (b2.extractLsb' 2 2) (b2.extractLsb' 1 1) (b2.extractLsb' 0 1) b3) ∨
    (IsLayer3 b0 b1 ∧ b2.extractLsb' 4 4 = 15#4 ∧
      decodeHdr (be32 b0 b1 b2 b3) =
        .hdrBadBitrate15 (b1.extractLsb' 0 1) (b2.extractLsb' 2 2) (b2.extractLsb' 1 1) (b2.extractLsb' 0 1) b3) ∨
    (IsLayer3 b0 b1 ∧ b2.extractLsb' 4 4 ≠ 0#4 ∧ b2.extractLsb' 4 4 ≠ 15#4 ∧ b2.extractLsb' 2 2 = 3#2 ∧
      decodeHdr (be32 b0 b1 b2 b3) =
        .hdrBadSampleRate (b1.extractLsb' 0 1) (b2.extractLsb' 4 4) (b2.extractLsb' 1 1) (b2.extractLsb' 0 1) b3) ∨
    (IsLayer3 b0 b1 ∧ b2.extractLsb' 4 4 ≠ 0#4 ∧ b2.extractLsb' 4 4 ≠ 15#4 ∧ b2.extractLsb' 2 2 ≠ 3#2 ∧
      decodeHdr (be32 b0 b1 b2 b3) =
        .hdrFrameL3 (b1.extractLsb' 0 1) (b2.extractLsb' 4 4) (b2.extractLsb' 2 2) (b2.extractLsb' 1 1) (b2.extractLsb' 0 1) b3) ∨
    (b0 = Config.syncByte ∧ b1 &&& Config.vlMask ≠ Config.vlMatch ∧ decodeHdr (be32 b0 b1 b2 b3) = .hdrBadVersionLayer b1 b2 b3) ∨
    (b0 ≠ Config.syncByte ∧ decodeHdr (be32 b0 b1 b2 b3) = .hdrNosync b0 b1 b2 b3) := by
  obtain ⟨r1, r2, r3, r4⟩ := rowMatches_layer3 (b0 ++ b1.extractLsb' 1 7) (b1.extractLsb' 0 1) (b2.extractLsb' 4 4)
    (b2.extractLsb' 2 2) (b2.extractLsb' 1 1) (b2.extractLsb' 0 1) b3
  obtain ⟨-, e2, e3, e4, e5, e6, e7⟩ := fieldsWord_fields (b0 ++ b1.extractLsb' 1 7) (b1.extractLsb' 0 1) (b2.extractLsb' 4 4)
    (b2.extractLsb' 2 2) (b2.extractLsb' 1 1) (b2.extractLsb' 0 1) b3
  rw [← be32_eq_fieldsWord, layer3_top] at r1 r2 r3 r4
  rw [← be32_eq_fieldsWord] at e2 e3 e4 e5 e6 e7
  have r5 : rowMatches (be32 b0 b1 b2 b3) 0xFF000000#32 0xFF000000#32 = true ↔ b0 = Config.syncByte := rowMatches_sync b0 b1 b2 b3
  obtain ⟨g1, g2, g3, -⟩ := be32_bytes b0 b1 b2 b3
  unfold IsLayer3 decodeHdr
  simp only [e2, e3, e4, e5, e6, e7, g1, g2, g3]
  cases x1 : rowMatches (be32 b0 b1 b2 b3) 0xFFFEF000#32 0xFFFA0000#32
  case true => exact .inl ⟨(r1.1 x1).1, (r1.1 x1).2, if_pos rfl⟩
  rw [if_neg Bool.false_ne_true]
  cases x2 : rowMatches (be32 b0 b1 b2 b3) 0xFFFEF000#32 0xFFFAF000#32
  case true => exact .inr (.inl ⟨(r2.1 x2).1, (r2.1 x2).2, if_pos rfl⟩)
  rw [if_neg Bool.false_ne_true]
  rw [← Bool.not_eq_true, r1] at x1
  rw [← Bool.not_eq_true, r2] at x2
  cases x3 : rowMatches (be32 b0 b1 b2 b3) 0xFFFE0C00#32 0xFFFA0C00#32
  case true =>
    have h := r3.1 x3
    exact .inr (.inr (.inl ⟨h.1, fun q => x1 ⟨h.1, q⟩, fun q => x2 ⟨h.1, q⟩, h.2, if_pos rfl⟩))
  rw [if_neg Bool.false_ne_true]
  rw [← Bool.not_eq_true, r3] at x3
  cases x4 : rowMatches (be32 b0 b1 b2 b3) 0xFFFE0000#32 0xFFFA0000#32
  case true =>
    have h := r4.1 x4
    exact .inr (.inr (.inr (.inl ⟨h, fun q => x1 ⟨h, q⟩, fun q => x2 ⟨h, q⟩, fun q => x3 ⟨h, q⟩, if_pos rfl⟩)))
  rw [if_neg Bool.false_ne_true]
  rw [← Bool.not_eq_true, r4] at x4
  cases x5 : rowMatches (be32 b0 b1 b2 b3) 0xFF000000#32 0xFF000000#32
  case true =>
    have h := r5.1 x5
    exact .inr (.inr (.inr (.inr (.inl ⟨h, fun q => x4 ⟨h, q⟩, if_pos rfl⟩))))
  rw [← Bool.not_eq_true, r5] at x5
  exact .inr (.inr (.inr (.inr (.inr ⟨x5, if_neg Bool.false_ne_true⟩))))

/-- A transaction that decodes is one of the TXN8 rows (R81, R82). -/
theorem decodeTxn_ok {bytes rest : List Byte} {i : Instr} (h : decodeTxn bytes = .ok (i, rest)) :
    (∃ data, i = .chunk data) ∨ i = .eos ∨ ∃ tag, i = .txnIllegal tag := by
  unfold decodeTxn at h
  split at h
  · cases h
  · split at h
    · unfold decodeChunk at h
      split at h
      · split at h
        · cases h
          exact .inl ⟨_, rfl⟩
        · cases h
      · cases h
    · split at h
      · cases h
        exact .inr (.inl rfl)
      · cases h
        exact .inr (.inr ⟨_, rfl⟩)

/-- A first chunk that decodes is one of the ID3_MAGIC24 rows. -/
theorem decodeTag_ok {c : List Byte} {i : Instr} (h : decodeTag c = .ok i) :
    (∃ tail, i = .tagPresent tail) ∨ ∃ head, i = .tagAbsent head := by
  unfold decodeTag at h
  split at h
  · cases h
  · split at h
    · cases h
      exact .inl ⟨_, rfl⟩
    · cases h
      exact .inr ⟨_, rfl⟩

end Sys2Proof
end

