-- ==== Sys2Proof/Laws/State.lean ====
section
/-! SUPPORT. One lemma per field per update of State: what each shared update leaves in each field. -/

namespace Sys2Proof.Machine

/-! ## emit -/

@[simp] theorem emit_phase (e : PortEvent) (s : State) : (emit e s).phase = s.phase := rfl
@[simp] theorem emit_tagLen (e : PortEvent) (s : State) : (emit e s).tagLen = s.tagLen := rfl
@[simp] theorem emit_tagRemain (e : PortEvent) (s : State) : (emit e s).tagRemain = s.tagRemain := rfl
@[simp] theorem emit_leftover (e : PortEvent) (s : State) : (emit e s).leftover = s.leftover := rfl
@[simp] theorem emit_leftoverLen (e : PortEvent) (s : State) : (emit e s).leftoverLen = s.leftoverLen := rfl
@[simp] theorem emit_sampleCursor (e : PortEvent) (s : State) : (emit e s).sampleCursor = s.sampleCursor := rfl
@[simp] theorem emit_faultCode (e : PortEvent) (s : State) : (emit e s).faultCode = s.faultCode := rfl
@[simp] theorem emit_faultCat (e : PortEvent) (s : State) : (emit e s).faultCat = s.faultCat := rfl
@[simp] theorem emit_faultOff (e : PortEvent) (s : State) : (emit e s).faultOff = s.faultOff := rfl
@[simp] theorem emit_faultHdr (e : PortEvent) (s : State) : (emit e s).faultHdr = s.faultHdr := rfl
@[simp] theorem emit_pcmBufferSize (e : PortEvent) (s : State) : (emit e s).pcmBufferSize = s.pcmBufferSize := rfl
@[simp] theorem emit_segCount (e : PortEvent) (s : State) : (emit e s).segCount = s.segCount := rfl
@[simp] theorem emit_frameCount (e : PortEvent) (s : State) : (emit e s).frameCount = s.frameCount := rfl
@[simp] theorem emit_op (e : PortEvent) (s : State) : (emit e s).op = s.op := rfl
@[simp] theorem emit_params (e : PortEvent) (s : State) : (emit e s).params = s.params := rfl
@[simp] theorem emit_rx (e : PortEvent) (s : State) : (emit e s).rx = s.rx := rfl
@[simp] theorem emit_host (e : PortEvent) (s : State) : (emit e s).host = s.host := rfl
@[simp] theorem emit_resets (e : PortEvent) (s : State) : (emit e s).resets = s.resets := rfl
@[simp] theorem emit_decAnswers (e : PortEvent) (s : State) : (emit e s).decAnswers = s.decAnswers := rfl
@[simp] theorem emit_draws (e : PortEvent) (s : State) : (emit e s).draws = s.draws := rfl
@[simp] theorem emit_log (e : PortEvent) (s : State) : (emit e s).log = e :: s.log := rfl

/-! ## enterFault -/

@[simp] theorem enterFault_phase (code : FaultCode) (off : Nat) (h : Word32) (s : State) : (enterFault code off h s).phase = .faulted := rfl
@[simp] theorem enterFault_tagLen (code : FaultCode) (off : Nat) (h : Word32) (s : State) : (enterFault code off h s).tagLen = s.tagLen := rfl
@[simp] theorem enterFault_tagRemain (code : FaultCode) (off : Nat) (h : Word32) (s : State) : (enterFault code off h s).tagRemain = s.tagRemain := rfl
@[simp] theorem enterFault_leftover (code : FaultCode) (off : Nat) (h : Word32) (s : State) : (enterFault code off h s).leftover = s.leftover := rfl
@[simp] theorem enterFault_leftoverLen (code : FaultCode) (off : Nat) (h : Word32) (s : State) : (enterFault code off h s).leftoverLen = s.leftoverLen := rfl
@[simp] theorem enterFault_sampleCursor (code : FaultCode) (off : Nat) (h : Word32) (s : State) : (enterFault code off h s).sampleCursor = s.sampleCursor := rfl
@[simp] theorem enterFault_faultCode (code : FaultCode) (off : Nat) (h : Word32) (s : State) : (enterFault code off h s).faultCode = faultCodeBits code := rfl
@[simp] theorem enterFault_faultCat (code : FaultCode) (off : Nat) (h : Word32) (s : State) : (enterFault code off h s).faultCat = faultCategory code := rfl
@[simp] theorem enterFault_faultOff (code : FaultCode) (off : Nat) (h : Word32) (s : State) : (enterFault code off h s).faultOff = faultOffBits off := rfl
@[simp] theorem enterFault_faultHdr (code : FaultCode) (off : Nat) (h : Word32) (s : State) : (enterFault code off h s).faultHdr = h := rfl
@[simp] theorem enterFault_pcmBufferSize (code : FaultCode) (off : Nat) (h : Word32) (s : State) : (enterFault code off h s).pcmBufferSize = s.pcmBufferSize := rfl
@[simp] theorem enterFault_segCount (code : FaultCode) (off : Nat) (h : Word32) (s : State) : (enterFault code off h s).segCount = s.segCount := rfl
@[simp] theorem enterFault_frameCount (code : FaultCode) (off : Nat) (h : Word32) (s : State) : (enterFault code off h s).frameCount = s.frameCount := rfl
@[simp] theorem enterFault_op (code : FaultCode) (off : Nat) (h : Word32) (s : State) : (enterFault code off h s).op = .failing := rfl
@[simp] theorem enterFault_params (code : FaultCode) (off : Nat) (h : Word32) (s : State) : (enterFault code off h s).params = s.params := rfl
@[simp] theorem enterFault_rx (code : FaultCode) (off : Nat) (h : Word32) (s : State) : (enterFault code off h s).rx = s.rx := rfl
@[simp] theorem enterFault_host (code : FaultCode) (off : Nat) (h : Word32) (s : State) : (enterFault code off h s).host = s.host := rfl
@[simp] theorem enterFault_resets (code : FaultCode) (off : Nat) (h : Word32) (s : State) : (enterFault code off h s).resets = s.resets := rfl
@[simp] theorem enterFault_decAnswers (code : FaultCode) (off : Nat) (h : Word32) (s : State) : (enterFault code off h s).decAnswers = s.decAnswers := rfl
@[simp] theorem enterFault_draws (code : FaultCode) (off : Nat) (h : Word32) (s : State) : (enterFault code off h s).draws = s.draws := rfl
@[simp] theorem enterFault_log (code : FaultCode) (off : Nat) (h : Word32) (s : State) : (enterFault code off h s).log = s.log := rfl

/-! ## sendFail -/

@[simp] theorem sendFail_phase (s : State) : (sendFail s).phase = s.phase := rfl
@[simp] theorem sendFail_tagLen (s : State) : (sendFail s).tagLen = s.tagLen := rfl
@[simp] theorem sendFail_tagRemain (s : State) : (sendFail s).tagRemain = s.tagRemain := rfl
@[simp] theorem sendFail_leftover (s : State) : (sendFail s).leftover = s.leftover := rfl
@[simp] theorem sendFail_leftoverLen (s : State) : (sendFail s).leftoverLen = s.leftoverLen := rfl
@[simp] theorem sendFail_sampleCursor (s : State) : (sendFail s).sampleCursor = s.sampleCursor := rfl
@[simp] theorem sendFail_faultCode (s : State) : (sendFail s).faultCode = s.faultCode := rfl
@[simp] theorem sendFail_faultCat (s : State) : (sendFail s).faultCat = s.faultCat := rfl
@[simp] theorem sendFail_faultOff (s : State) : (sendFail s).faultOff = s.faultOff := rfl
@[simp] theorem sendFail_faultHdr (s : State) : (sendFail s).faultHdr = s.faultHdr := rfl
@[simp] theorem sendFail_pcmBufferSize (s : State) : (sendFail s).pcmBufferSize = s.pcmBufferSize := rfl
@[simp] theorem sendFail_segCount (s : State) : (sendFail s).segCount = s.segCount := rfl
@[simp] theorem sendFail_frameCount (s : State) : (sendFail s).frameCount = s.frameCount := rfl
@[simp] theorem sendFail_op (s : State) : (sendFail s).op = .idle := rfl
@[simp] theorem sendFail_params (s : State) : (sendFail s).params = s.params := rfl
@[simp] theorem sendFail_rx (s : State) : (sendFail s).rx = s.rx := rfl
@[simp] theorem sendFail_host (s : State) : (sendFail s).host = s.host := rfl
@[simp] theorem sendFail_resets (s : State) : (sendFail s).resets = s.resets := rfl
@[simp] theorem sendFail_decAnswers (s : State) : (sendFail s).decAnswers = s.decAnswers := rfl
@[simp] theorem sendFail_draws (s : State) : (sendFail s).draws = s.draws := rfl
@[simp] theorem sendFail_log (s : State) : (sendFail s).log = .out (.fail s.faultCode) :: s.log := rfl

/-! ## raise -/

@[simp] theorem raise_phase (code : FaultCode) (off : Nat) (h : Word32) (s : State) : (raise code off h s).phase = .faulted := rfl
@[simp] theorem raise_tagLen (code : FaultCode) (off : Nat) (h : Word32) (s : State) : (raise code off h s).tagLen = s.tagLen := rfl
@[simp] theorem raise_tagRemain (code : FaultCode) (off : Nat) (h : Word32) (s : State) : (raise code off h s).tagRemain = s.tagRemain := rfl
@[simp] theorem raise_leftover (code : FaultCode) (off : Nat) (h : Word32) (s : State) : (raise code off h s).leftover = s.leftover := rfl
@[simp] theorem raise_leftoverLen (code : FaultCode) (off : Nat) (h : Word32) (s : State) : (raise code off h s).leftoverLen = s.leftoverLen := rfl
@[simp] theorem raise_sampleCursor (code : FaultCode) (off : Nat) (h : Word32) (s : State) : (raise code off h s).sampleCursor = s.sampleCursor := rfl
@[simp] theorem raise_faultCode (code : FaultCode) (off : Nat) (h : Word32) (s : State) : (raise code off h s).faultCode = faultCodeBits code := rfl
@[simp] theorem raise_faultCat (code : FaultCode) (off : Nat) (h : Word32) (s : State) : (raise code off h s).faultCat = faultCategory code := rfl
@[simp] theorem raise_faultOff (code : FaultCode) (off : Nat) (h : Word32) (s : State) : (raise code off h s).faultOff = faultOffBits off := rfl
@[simp] theorem raise_faultHdr (code : FaultCode) (off : Nat) (h : Word32) (s : State) : (raise code off h s).faultHdr = h := rfl
@[simp] theorem raise_pcmBufferSize (code : FaultCode) (off : Nat) (h : Word32) (s : State) : (raise code off h s).pcmBufferSize = s.pcmBufferSize := rfl
@[simp] theorem raise_segCount (code : FaultCode) (off : Nat) (h : Word32) (s : State) : (raise code off h s).segCount = s.segCount := rfl
@[simp] theorem raise_frameCount (code : FaultCode) (off : Nat) (h : Word32) (s : State) : (raise code off h s).frameCount = s.frameCount := rfl
@[simp] theorem raise_op (code : FaultCode) (off : Nat) (h : Word32) (s : State) : (raise code off h s).op = .idle := rfl
@[simp] theorem raise_params (code : FaultCode) (off : Nat) (h : Word32) (s : State) : (raise code off h s).params = s.params := rfl
@[simp] theorem raise_rx (code : FaultCode) (off : Nat) (h : Word32) (s : State) : (raise code off h s).rx = s.rx := rfl
@[simp] theorem raise_host (code : FaultCode) (off : Nat) (h : Word32) (s : State) : (raise code off h s).host = s.host := rfl
@[simp] theorem raise_resets (code : FaultCode) (off : Nat) (h : Word32) (s : State) : (raise code off h s).resets = s.resets := rfl
@[simp] theorem raise_decAnswers (code : FaultCode) (off : Nat) (h : Word32) (s : State) : (raise code off h s).decAnswers = s.decAnswers := rfl
@[simp] theorem raise_draws (code : FaultCode) (off : Nat) (h : Word32) (s : State) : (raise code off h s).draws = s.draws := rfl
@[simp] theorem raise_log (code : FaultCode) (off : Nat) (h : Word32) (s : State) : (raise code off h s).log = .out (.fail (faultCodeBits code)) :: s.log := rfl

/-! ## resetCore -/

@[simp] theorem resetCore_phase (s : State) : (resetCore s).phase = .tagHead := rfl
@[simp] theorem resetCore_tagLen (s : State) : (resetCore s).tagLen = 0#29 := rfl
@[simp] theorem resetCore_tagRemain (s : State) : (resetCore s).tagRemain = 0#29 := rfl
@[simp] theorem resetCore_leftover (s : State) : (resetCore s).leftover = [] := rfl
@[simp] theorem resetCore_leftoverLen (s : State) : (resetCore s).leftoverLen = 0#32 := rfl
@[simp] theorem resetCore_sampleCursor (s : State) : (resetCore s).sampleCursor = 0#32 := rfl
@[simp] theorem resetCore_faultCode (s : State) : (resetCore s).faultCode = 0#8 := rfl
@[simp] theorem resetCore_faultCat (s : State) : (resetCore s).faultCat = 0#4 := rfl
@[simp] theorem resetCore_faultOff (s : State) : (resetCore s).faultOff = 0#32 := rfl
@[simp] theorem resetCore_faultHdr (s : State) : (resetCore s).faultHdr = 0#32 := rfl
@[simp] theorem resetCore_pcmBufferSize (s : State) : (resetCore s).pcmBufferSize = s.params.pcmBufferSizeReset := rfl
@[simp] theorem resetCore_segCount (s : State) : (resetCore s).segCount = 0#32 := rfl
@[simp] theorem resetCore_frameCount (s : State) : (resetCore s).frameCount = 0#32 := rfl
@[simp] theorem resetCore_op (s : State) : (resetCore s).op = .idle := rfl
@[simp] theorem resetCore_params (s : State) : (resetCore s).params = s.params := rfl
@[simp] theorem resetCore_rx (s : State) : (resetCore s).rx = s.rx := rfl
@[simp] theorem resetCore_host (s : State) : (resetCore s).host = s.host := rfl
@[simp] theorem resetCore_resets (s : State) : (resetCore s).resets = s.resets := rfl
@[simp] theorem resetCore_decAnswers (s : State) : (resetCore s).decAnswers = s.decAnswers := rfl
@[simp] theorem resetCore_draws (s : State) : (resetCore s).draws = s.draws := rfl
@[simp] theorem resetCore_log (s : State) : (resetCore s).log = s.log := rfl

/-! ## dropAnswer -/

@[simp] theorem dropAnswer_phase (s : State) : (dropAnswer s).phase = s.phase := rfl
@[simp] theorem dropAnswer_tagLen (s : State) : (dropAnswer s).tagLen = s.tagLen := rfl
@[simp] theorem dropAnswer_tagRemain (s : State) : (dropAnswer s).tagRemain = s.tagRemain := rfl
@[simp] theorem dropAnswer_leftover (s : State) : (dropAnswer s).leftover = s.leftover := rfl
@[simp] theorem dropAnswer_leftoverLen (s : State) : (dropAnswer s).leftoverLen = s.leftoverLen := rfl
@[simp] theorem dropAnswer_sampleCursor (s : State) : (dropAnswer s).sampleCursor = s.sampleCursor := rfl
@[simp] theorem dropAnswer_faultCode (s : State) : (dropAnswer s).faultCode = s.faultCode := rfl
@[simp] theorem dropAnswer_faultCat (s : State) : (dropAnswer s).faultCat = s.faultCat := rfl
@[simp] theorem dropAnswer_faultOff (s : State) : (dropAnswer s).faultOff = s.faultOff := rfl
@[simp] theorem dropAnswer_faultHdr (s : State) : (dropAnswer s).faultHdr = s.faultHdr := rfl
@[simp] theorem dropAnswer_pcmBufferSize (s : State) : (dropAnswer s).pcmBufferSize = s.pcmBufferSize := rfl
@[simp] theorem dropAnswer_segCount (s : State) : (dropAnswer s).segCount = s.segCount := rfl
@[simp] theorem dropAnswer_frameCount (s : State) : (dropAnswer s).frameCount = s.frameCount := rfl
@[simp] theorem dropAnswer_op (s : State) : (dropAnswer s).op = s.op := rfl
@[simp] theorem dropAnswer_params (s : State) : (dropAnswer s).params = s.params := rfl
@[simp] theorem dropAnswer_rx (s : State) : (dropAnswer s).rx = s.rx := rfl
@[simp] theorem dropAnswer_host (s : State) : (dropAnswer s).host = s.host := rfl
@[simp] theorem dropAnswer_resets (s : State) : (dropAnswer s).resets = s.resets := rfl
@[simp] theorem dropAnswer_decAnswers (s : State) : (dropAnswer s).decAnswers = s.decAnswers.tail := rfl
@[simp] theorem dropAnswer_draws (s : State) : (dropAnswer s).draws = s.draws + 1 := rfl
@[simp] theorem dropAnswer_log (s : State) : (dropAnswer s).log = s.log := rfl

/-! ## recordFrame -/

@[simp] theorem recordFrame_phase (size : Nat) (p : Scan) (s : State) : (recordFrame size p s).phase = s.phase := rfl
@[simp] theorem recordFrame_tagLen (size : Nat) (p : Scan) (s : State) : (recordFrame size p s).tagLen = s.tagLen := rfl
@[simp] theorem recordFrame_tagRemain (size : Nat) (p : Scan) (s : State) : (recordFrame size p s).tagRemain = s.tagRemain := rfl
@[simp] theorem recordFrame_leftover (size : Nat) (p : Scan) (s : State) : (recordFrame size p s).leftover = s.leftover := rfl
@[simp] theorem recordFrame_leftoverLen (size : Nat) (p : Scan) (s : State) : (recordFrame size p s).leftoverLen = s.leftoverLen := rfl
@[simp] theorem recordFrame_sampleCursor (size : Nat) (p : Scan) (s : State) : (recordFrame size p s).sampleCursor = s.sampleCursor := rfl
@[simp] theorem recordFrame_faultCode (size : Nat) (p : Scan) (s : State) : (recordFrame size p s).faultCode = s.faultCode := rfl
@[simp] theorem recordFrame_faultCat (size : Nat) (p : Scan) (s : State) : (recordFrame size p s).faultCat = s.faultCat := rfl
@[simp] theorem recordFrame_faultOff (size : Nat) (p : Scan) (s : State) : (recordFrame size p s).faultOff = s.faultOff := rfl
@[simp] theorem recordFrame_faultHdr (size : Nat) (p : Scan) (s : State) : (recordFrame size p s).faultHdr = s.faultHdr := rfl
@[simp] theorem recordFrame_pcmBufferSize (size : Nat) (p : Scan) (s : State) : (recordFrame size p s).pcmBufferSize = s.pcmBufferSize := rfl
@[simp] theorem recordFrame_segCount (size : Nat) (p : Scan) (s : State) : (recordFrame size p s).segCount = s.segCount := rfl
@[simp] theorem recordFrame_frameCount (size : Nat) (p : Scan) (s : State) : (recordFrame size p s).frameCount = s.frameCount := rfl
@[simp] theorem recordFrame_op (size : Nat) (p : Scan) (s : State) : (recordFrame size p s).op = .scan { p with off := p.off + size, sizes := p.sizes ++ [size] } := rfl
@[simp] theorem recordFrame_params (size : Nat) (p : Scan) (s : State) : (recordFrame size p s).params = s.params := rfl
@[simp] theorem recordFrame_rx (size : Nat) (p : Scan) (s : State) : (recordFrame size p s).rx = s.rx := rfl
@[simp] theorem recordFrame_host (size : Nat) (p : Scan) (s : State) : (recordFrame size p s).host = s.host := rfl
@[simp] theorem recordFrame_resets (size : Nat) (p : Scan) (s : State) : (recordFrame size p s).resets = s.resets := rfl
@[simp] theorem recordFrame_decAnswers (size : Nat) (p : Scan) (s : State) : (recordFrame size p s).decAnswers = s.decAnswers := rfl
@[simp] theorem recordFrame_draws (size : Nat) (p : Scan) (s : State) : (recordFrame size p s).draws = s.draws := rfl
@[simp] theorem recordFrame_log (size : Nat) (p : Scan) (s : State) : (recordFrame size p s).log = s.log := rfl

/-! ## endScan -/

@[simp] theorem endScan_phase (stop : Stop) (p : Scan) (s : State) : (endScan stop p s).phase = s.phase := rfl
@[simp] theorem endScan_tagLen (stop : Stop) (p : Scan) (s : State) : (endScan stop p s).tagLen = s.tagLen := rfl
@[simp] theorem endScan_tagRemain (stop : Stop) (p : Scan) (s : State) : (endScan stop p s).tagRemain = s.tagRemain := rfl
@[simp] theorem endScan_leftover (stop : Stop) (p : Scan) (s : State) : (endScan stop p s).leftover = s.leftover := rfl
@[simp] theorem endScan_leftoverLen (stop : Stop) (p : Scan) (s : State) : (endScan stop p s).leftoverLen = s.leftoverLen := rfl
@[simp] theorem endScan_sampleCursor (stop : Stop) (p : Scan) (s : State) : (endScan stop p s).sampleCursor = s.sampleCursor := rfl
@[simp] theorem endScan_faultCode (stop : Stop) (p : Scan) (s : State) : (endScan stop p s).faultCode = s.faultCode := rfl
@[simp] theorem endScan_faultCat (stop : Stop) (p : Scan) (s : State) : (endScan stop p s).faultCat = s.faultCat := rfl
@[simp] theorem endScan_faultOff (stop : Stop) (p : Scan) (s : State) : (endScan stop p s).faultOff = s.faultOff := rfl
@[simp] theorem endScan_faultHdr (stop : Stop) (p : Scan) (s : State) : (endScan stop p s).faultHdr = s.faultHdr := rfl
@[simp] theorem endScan_pcmBufferSize (stop : Stop) (p : Scan) (s : State) : (endScan stop p s).pcmBufferSize = s.pcmBufferSize := rfl
@[simp] theorem endScan_segCount (stop : Stop) (p : Scan) (s : State) : (endScan stop p s).segCount = s.segCount := rfl
@[simp] theorem endScan_frameCount (stop : Stop) (p : Scan) (s : State) : (endScan stop p s).frameCount = s.frameCount := rfl
@[simp] theorem endScan_params (stop : Stop) (p : Scan) (s : State) : (endScan stop p s).params = s.params := rfl
@[simp] theorem endScan_rx (stop : Stop) (p : Scan) (s : State) : (endScan stop p s).rx = s.rx := rfl
@[simp] theorem endScan_host (stop : Stop) (p : Scan) (s : State) : (endScan stop p s).host = s.host := rfl
@[simp] theorem endScan_resets (stop : Stop) (p : Scan) (s : State) : (endScan stop p s).resets = s.resets := rfl
@[simp] theorem endScan_decAnswers (stop : Stop) (p : Scan) (s : State) : (endScan stop p s).decAnswers = s.decAnswers := rfl
@[simp] theorem endScan_draws (stop : Stop) (p : Scan) (s : State) : (endScan stop p s).draws = s.draws := rfl
@[simp] theorem endScan_log (stop : Stop) (p : Scan) (s : State) : (endScan stop p s).log = s.log := rfl

/-! ## emitSegment -/

@[simp] theorem emitSegment_phase (seg : Segment) (newLeft : List Byte) (s : State) : (emitSegment seg newLeft s).phase = s.phase := rfl
@[simp] theorem emitSegment_tagLen (seg : Segment) (newLeft : List Byte) (s : State) : (emitSegment seg newLeft s).tagLen = s.tagLen := rfl
@[simp] theorem emitSegment_tagRemain (seg : Segment) (newLeft : List Byte) (s : State) : (emitSegment seg newLeft s).tagRemain = s.tagRemain := rfl
@[simp] theorem emitSegment_leftover (seg : Segment) (newLeft : List Byte) (s : State) : (emitSegment seg newLeft s).leftover = s.leftover := rfl
@[simp] theorem emitSegment_leftoverLen (seg : Segment) (newLeft : List Byte) (s : State) : (emitSegment seg newLeft s).leftoverLen = s.leftoverLen := rfl
@[simp] theorem emitSegment_sampleCursor (seg : Segment) (newLeft : List Byte) (s : State) : (emitSegment seg newLeft s).sampleCursor = s.sampleCursor := rfl
@[simp] theorem emitSegment_faultCode (seg : Segment) (newLeft : List Byte) (s : State) : (emitSegment seg newLeft s).faultCode = s.faultCode := rfl
@[simp] theorem emitSegment_faultCat (seg : Segment) (newLeft : List Byte) (s : State) : (emitSegment seg newLeft s).faultCat = s.faultCat := rfl
@[simp] theorem emitSegment_faultOff (seg : Segment) (newLeft : List Byte) (s : State) : (emitSegment seg newLeft s).faultOff = s.faultOff := rfl
@[simp] theorem emitSegment_faultHdr (seg : Segment) (newLeft : List Byte) (s : State) : (emitSegment seg newLeft s).faultHdr = s.faultHdr := rfl
@[simp] theorem emitSegment_pcmBufferSize (seg : Segment) (newLeft : List Byte) (s : State) : (emitSegment seg newLeft s).pcmBufferSize = s.pcmBufferSize := rfl
@[simp] theorem emitSegment_segCount (seg : Segment) (newLeft : List Byte) (s : State) : (emitSegment seg newLeft s).segCount = s.segCount + 1#32 := rfl
@[simp] theorem emitSegment_frameCount (seg : Segment) (newLeft : List Byte) (s : State) : (emitSegment seg newLeft s).frameCount = s.frameCount := rfl
@[simp] theorem emitSegment_op (seg : Segment) (newLeft : List Byte) (s : State) : (emitSegment seg newLeft s).op = .commit newLeft := rfl
@[simp] theorem emitSegment_params (seg : Segment) (newLeft : List Byte) (s : State) : (emitSegment seg newLeft s).params = s.params := rfl
@[simp] theorem emitSegment_rx (seg : Segment) (newLeft : List Byte) (s : State) : (emitSegment seg newLeft s).rx = s.rx := rfl
@[simp] theorem emitSegment_host (seg : Segment) (newLeft : List Byte) (s : State) : (emitSegment seg newLeft s).host = s.host := rfl
@[simp] theorem emitSegment_resets (seg : Segment) (newLeft : List Byte) (s : State) : (emitSegment seg newLeft s).resets = s.resets := rfl
@[simp] theorem emitSegment_decAnswers (seg : Segment) (newLeft : List Byte) (s : State) : (emitSegment seg newLeft s).decAnswers = s.decAnswers := rfl
@[simp] theorem emitSegment_draws (seg : Segment) (newLeft : List Byte) (s : State) : (emitSegment seg newLeft s).draws = s.draws := rfl
@[simp] theorem emitSegment_log (seg : Segment) (newLeft : List Byte) (s : State) : (emitSegment seg newLeft s).log = .out (.segment seg) :: s.log := rfl

/-! ## commitLeftover -/

@[simp] theorem commitLeftover_phase (newLeft : List Byte) (s : State) : (commitLeftover newLeft s).phase = s.phase := rfl
@[simp] theorem commitLeftover_tagLen (newLeft : List Byte) (s : State) : (commitLeftover newLeft s).tagLen = s.tagLen := rfl
@[simp] theorem commitLeftover_tagRemain (newLeft : List Byte) (s : State) : (commitLeftover newLeft s).tagRemain = s.tagRemain := rfl
@[simp] theorem commitLeftover_leftover (newLeft : List Byte) (s : State) : (commitLeftover newLeft s).leftover = newLeft := rfl
@[simp] theorem commitLeftover_leftoverLen (newLeft : List Byte) (s : State) : (commitLeftover newLeft s).leftoverLen = leftoverLenBits newLeft.length := rfl
@[simp] theorem commitLeftover_sampleCursor (newLeft : List Byte) (s : State) : (commitLeftover newLeft s).sampleCursor = s.sampleCursor := rfl
@[simp] theorem commitLeftover_faultCode (newLeft : List Byte) (s : State) : (commitLeftover newLeft s).faultCode = s.faultCode := rfl
@[simp] theorem commitLeftover_faultCat (newLeft : List Byte) (s : State) : (commitLeftover newLeft s).faultCat = s.faultCat := rfl
@[simp] theorem commitLeftover_faultOff (newLeft : List Byte) (s : State) : (commitLeftover newLeft s).faultOff = s.faultOff := rfl
@[simp] theorem commitLeftover_faultHdr (newLeft : List Byte) (s : State) : (commitLeftover newLeft s).faultHdr = s.faultHdr := rfl
@[simp] theorem commitLeftover_pcmBufferSize (newLeft : List Byte) (s : State) : (commitLeftover newLeft s).pcmBufferSize = s.pcmBufferSize := rfl
@[simp] theorem commitLeftover_segCount (newLeft : List Byte) (s : State) : (commitLeftover newLeft s).segCount = s.segCount := rfl
@[simp] theorem commitLeftover_frameCount (newLeft : List Byte) (s : State) : (commitLeftover newLeft s).frameCount = s.frameCount := rfl
@[simp] theorem commitLeftover_op (newLeft : List Byte) (s : State) : (commitLeftover newLeft s).op = .idle := rfl
@[simp] theorem commitLeftover_params (newLeft : List Byte) (s : State) : (commitLeftover newLeft s).params = s.params := rfl
@[simp] theorem commitLeftover_rx (newLeft : List Byte) (s : State) : (commitLeftover newLeft s).rx = s.rx := rfl
@[simp] theorem commitLeftover_host (newLeft : List Byte) (s : State) : (commitLeftover newLeft s).host = s.host := rfl
@[simp] theorem commitLeftover_resets (newLeft : List Byte) (s : State) : (commitLeftover newLeft s).resets = s.resets := rfl
@[simp] theorem commitLeftover_decAnswers (newLeft : List Byte) (s : State) : (commitLeftover newLeft s).decAnswers = s.decAnswers := rfl
@[simp] theorem commitLeftover_draws (newLeft : List Byte) (s : State) : (commitLeftover newLeft s).draws = s.draws := rfl
@[simp] theorem commitLeftover_log (newLeft : List Byte) (s : State) : (commitLeftover newLeft s).log = s.log := rfl

/-! ## endStream -/

@[simp] theorem endStream_phase (s : State) : (endStream s).phase = .ended := rfl
@[simp] theorem endStream_tagLen (s : State) : (endStream s).tagLen = s.tagLen := rfl
@[simp] theorem endStream_tagRemain (s : State) : (endStream s).tagRemain = s.tagRemain := rfl
@[simp] theorem endStream_leftover (s : State) : (endStream s).leftover = s.leftover := rfl
@[simp] theorem endStream_leftoverLen (s : State) : (endStream s).leftoverLen = s.leftoverLen := rfl
@[simp] theorem endStream_sampleCursor (s : State) : (endStream s).sampleCursor = s.sampleCursor := rfl
@[simp] theorem endStream_faultCode (s : State) : (endStream s).faultCode = s.faultCode := rfl
@[simp] theorem endStream_faultCat (s : State) : (endStream s).faultCat = s.faultCat := rfl
@[simp] theorem endStream_faultOff (s : State) : (endStream s).faultOff = s.faultOff := rfl
@[simp] theorem endStream_faultHdr (s : State) : (endStream s).faultHdr = s.faultHdr := rfl
@[simp] theorem endStream_pcmBufferSize (s : State) : (endStream s).pcmBufferSize = s.pcmBufferSize := rfl
@[simp] theorem endStream_segCount (s : State) : (endStream s).segCount = s.segCount := rfl
@[simp] theorem endStream_frameCount (s : State) : (endStream s).frameCount = s.frameCount := rfl
@[simp] theorem endStream_op (s : State) : (endStream s).op = .ending := rfl
@[simp] theorem endStream_params (s : State) : (endStream s).params = s.params := rfl
@[simp] theorem endStream_rx (s : State) : (endStream s).rx = s.rx := rfl
@[simp] theorem endStream_host (s : State) : (endStream s).host = s.host := rfl
@[simp] theorem endStream_resets (s : State) : (endStream s).resets = s.resets := rfl
@[simp] theorem endStream_decAnswers (s : State) : (endStream s).decAnswers = s.decAnswers := rfl
@[simp] theorem endStream_draws (s : State) : (endStream s).draws = s.draws := rfl
@[simp] theorem endStream_log (s : State) : (endStream s).log = s.log := rfl

/-! ## sendEnd -/

@[simp] theorem sendEnd_phase (s : State) : (sendEnd s).phase = s.phase := rfl
@[simp] theorem sendEnd_tagLen (s : State) : (sendEnd s).tagLen = s.tagLen := rfl
@[simp] theorem sendEnd_tagRemain (s : State) : (sendEnd s).tagRemain = s.tagRemain := rfl
@[simp] theorem sendEnd_leftover (s : State) : (sendEnd s).leftover = s.leftover := rfl
@[simp] theorem sendEnd_leftoverLen (s : State) : (sendEnd s).leftoverLen = s.leftoverLen := rfl
@[simp] theorem sendEnd_sampleCursor (s : State) : (sendEnd s).sampleCursor = s.sampleCursor := rfl
@[simp] theorem sendEnd_faultCode (s : State) : (sendEnd s).faultCode = s.faultCode := rfl
@[simp] theorem sendEnd_faultCat (s : State) : (sendEnd s).faultCat = s.faultCat := rfl
@[simp] theorem sendEnd_faultOff (s : State) : (sendEnd s).faultOff = s.faultOff := rfl
@[simp] theorem sendEnd_faultHdr (s : State) : (sendEnd s).faultHdr = s.faultHdr := rfl
@[simp] theorem sendEnd_pcmBufferSize (s : State) : (sendEnd s).pcmBufferSize = s.pcmBufferSize := rfl
@[simp] theorem sendEnd_segCount (s : State) : (sendEnd s).segCount = s.segCount := rfl
@[simp] theorem sendEnd_frameCount (s : State) : (sendEnd s).frameCount = s.frameCount := rfl
@[simp] theorem sendEnd_op (s : State) : (sendEnd s).op = .idle := rfl
@[simp] theorem sendEnd_params (s : State) : (sendEnd s).params = s.params := rfl
@[simp] theorem sendEnd_rx (s : State) : (sendEnd s).rx = s.rx := rfl
@[simp] theorem sendEnd_host (s : State) : (sendEnd s).host = s.host := rfl
@[simp] theorem sendEnd_resets (s : State) : (sendEnd s).resets = s.resets := rfl
@[simp] theorem sendEnd_decAnswers (s : State) : (sendEnd s).decAnswers = s.decAnswers := rfl
@[simp] theorem sendEnd_draws (s : State) : (sendEnd s).draws = s.draws := rfl
@[simp] theorem sendEnd_log (s : State) : (sendEnd s).log = .out .endOfStream :: s.log := rfl

end Sys2Proof.Machine
end

