-- ==== Sys2Proof/Laws/Ops.lean ====
section
/-! SUPPORT. What each shared operation can do, said once: one lemma per operation of Machine/Ops.lean and the meanings over it, and the induction over the small steps of a transaction. -/

namespace Sys2Proof.Machine

/-! ## Reads -/

theorem memRead_eq_some {buf bytes : List Byte} {off n : Nat} :
    memRead buf off n = some bytes ↔ off + n ≤ buf.length ∧ bytes = (buf.drop off).take n := by
  unfold memRead
  split
  · simp [*, eq_comm]
  · simp [*]

theorem memRead_isSome {buf : List Byte} {off n : Nat} : (memRead buf off n).isSome = true ↔ off + n ≤ buf.length := by
  unfold memRead
  split <;> simp [*]

theorem memRead_four {buf : List Byte} {off : Nat} (h : off + 4 ≤ buf.length) :
    ∃ b0 b1 b2 b3, memRead buf off 4 = some [b0, b1, b2, b3] := by
  have hlen : ((buf.drop off).take 4).length = 4 := by simp; omega
  obtain ⟨b0, b1, b2, b3, hb⟩ : ∃ b0 b1 b2 b3, (buf.drop off).take 4 = [b0, b1, b2, b3] := by
    match hl : (buf.drop off).take 4, hlen with
    | [b0, b1, b2, b3], _ => exact ⟨b0, b1, b2, b3, rfl⟩
  exact ⟨b0, b1, b2, b3, by simp [memRead, h, hb]⟩

/-- HDRPARSE answers SHORT exactly when fewer than 4 bytes are left (R140). -/
theorem hdrParse_eq_short {buf : List Byte} {off : Nat} : hdrParse buf off = .short ↔ buf.length < off + 4 := by
  by_cases h : off + 4 ≤ buf.length
  · obtain ⟨b0, b1, b2, b3, hb⟩ := memRead_four h
    have : ¬ buf.length < off + 4 := by omega
    simp only [this, iff_false]
    unfold hdrParse
    rw [hb]
    dsimp only
    split
    · simp
    · split
      · simp
      · split <;> simp
  · have hn : memRead buf off 4 = none := by simp [memRead, h]
    simp only [hdrParse, hn, true_iff]
    omega

/-- A header is decoded at an offset exactly when HDRPARSE does not answer SHORT there. -/
theorem hdrAt_eq_some {buf : List Byte} {off : Nat} {h : Word32} :
    hdrAt buf off = some h ↔
      ∃ b0 b1 b2 b3, memRead buf off 4 = some [b0, b1, b2, b3] ∧ h = be32 b0 b1 b2 b3 := by
  unfold hdrAt
  constructor
  · intro e
    split at e
    · rename_i b0 b1 b2 b3 hb
      exact ⟨b0, b1, b2, b3, hb, by simpa using e.symm⟩
    · simp at e
  · rintro ⟨b0, b1, b2, b3, hb, rfl⟩
    rw [hb]

theorem hdrAt_eq_none {buf : List Byte} {off : Nat} : hdrAt buf off = none ↔ buf.length < off + 4 := by
  by_cases h : off + 4 ≤ buf.length
  · obtain ⟨b0, b1, b2, b3, hb⟩ := memRead_four h
    simp only [hdrAt, hb, reduceCtorEq, false_iff]
    omega
  · have hn : memRead buf off 4 = none := by simp [memRead, h]
    simp only [hdrAt, hn, true_iff]
    omega

/-! ## The capacity of the buffers -/

theorem overCapacity_eq_false {cap : Option Nat} {bytes : List Byte} {n : Nat} (h : overCapacity cap n = false)
    (hle : bytes.length ≤ n) : Memory.wf cap bytes = true := by
  cases cap with
  | none => rfl
  | some k =>
    simp only [overCapacity, decide_eq_false_iff_not, Memory.wf, decide_eq_true_eq] at *
    omega

/-- A shorter sequence fits where a longer one does. -/
theorem Memory.wf_of_length_le {cap : Option Nat} {a b : List Byte} (h : Memory.wf cap b = true)
    (hle : a.length ≤ b.length) : Memory.wf cap a = true := by
  cases cap with
  | none => rfl
  | some k =>
    simp only [Memory.wf, decide_eq_true_eq] at *
    omega

theorem Memory.wf_nil {cap : Option Nat} : Memory.wf cap [] = true := by
  cases cap <;> simp [Memory.wf]

/-- The bytes carried are bytes of the working buffer, under either rule (R166, R167). -/
theorem leftoverOf_length_le (rule : LeftoverRule) (buf : List Byte) (sizes : List Nat) :
    (leftoverOf rule buf sizes).length ≤ buf.length := by
  unfold leftoverOf
  split
  · simp
  · split <;> simp

theorem leftoverOf_wf {cap : Option Nat} {buf : List Byte} (rule : LeftoverRule) (sizes : List Nat)
    (h : Memory.wf cap buf = true) : Memory.wf cap (leftoverOf rule buf sizes) = true :=
  Memory.wf_of_length_le h (leftoverOf_length_le rule buf sizes)

theorem reset_leftover_wf : Memory.wf State.reset.params.wbufCap State.reset.leftover = true := Memory.wf_nil

/-! ## Flags and numbers in 32-bit registers -/

/-- The capacity comparison of R169. -/
theorem cursorOverflows_iff {cursor : Word32} {k : Nat} :
    cursorOverflows cursor k = true ↔ 2 ^ 32 - 1 < cursor.toNat + k := decide_eq_true_iff

theorem cursorOverflows_eq_false {cursor : Word32} {k : Nat} :
    cursorOverflows cursor k = false ↔ cursor.toNat + k ≤ 2 ^ 32 - 1 :=
  decide_eq_false_iff_not.trans Nat.not_lt

/-- The capacity comparison of R170. -/
theorem interleaveOverflows_iff {cursor pcmSize : Word32} :
    interleaveOverflows cursor pcmSize = true ↔ pcmSize.toNat < 4 * cursor.toNat := decide_eq_true_iff

theorem interleaveOverflows_eq_false {cursor pcmSize : Word32} :
    interleaveOverflows cursor pcmSize = false ↔ 4 * cursor.toNat ≤ pcmSize.toNat :=
  decide_eq_false_iff_not.trans Nat.not_lt

/-- FITS (R165): no frame was recorded, or the last recorded frame ends inside the working buffer. -/
theorem fitsFlag_iff {len : Nat} {sizes : List Nat} : fitsFlag len sizes = true ↔ sizes = [] ∨ sizes.sum ≤ len := by
  simp [fitsFlag]


/-! ## Fault entry -/

/-- Ending a fault entry that `enterFault` began is the whole fault entry (R222). -/
@[simp] theorem finishFault_enterFault (code : FaultCode) (off : Nat) (h : Word32) (s : State) :
    finishFault (enterFault code off h s) = raise code off h s := if_pos rfl

/-- Where no fault entry has begun there is none to end. -/
theorem finishFault_of_ne {s : State} (h : s.op ≠ .failing) : finishFault s = s := if_neg h

/-- One small step after `enterFault` is the whole fault entry. -/
theorem advance_enterFault (code : FaultCode) (off : Nat) (h : Word32) (s : State) :
    advance (enterFault code off h s) = .next (raise code off h s) := rfl

/-- LEFTOVER_LEN holds a length that fits 32 bits (R24). -/
theorem leftoverLenBits_of_lt {n : Nat} (h : n < 2 ^ 32) : leftoverLenBits n = BitVec.ofNat 32 n := if_pos h

/-- FAULT_OFF holds an offset that fits 32 bits (R26). -/
theorem faultOffBits_of_lt {n : Nat} (h : n < 2 ^ 32) : faultOffBits n = BitVec.ofNat 32 n := if_pos h

@[simp] theorem faultOffBits_zero : faultOffBits 0 = 0#32 := rfl

@[simp] theorem leftoverLenBits_zero : leftoverLenBits 0 = 0#32 := rfl

theorem overCapacity_none (n : Nat) : overCapacity none n = false := rfl

/-! ## The start offsets -/

theorem startsFrom_length (at_ : Nat) (sizes : List Nat) : (startsFrom at_ sizes).length = sizes.length + 1 := by
  induction sizes generalizing at_ with
  | nil => rfl
  | cons z zs ih => simp [startsFrom, ih]

/-- `STARTS[i]` is the sum of the first i sizes (R164). -/
theorem startsFrom_getD (at_ : Nat) (sizes : List Nat) (i : Nat) (h : i ≤ sizes.length) :
    (startsFrom at_ sizes).getD i 0 = at_ + (sizes.take i).sum := by
  induction sizes generalizing at_ i with
  | nil =>
    obtain rfl : i = 0 := by simpa using h
    simp [startsFrom]
  | cons z zs ih =>
    cases i with
    | zero => simp [startsFrom]
    | succ i =>
      have := ih (at_ + z) i (by simpa using h)
      simp only [startsFrom, List.getD_cons_succ, this, List.take_succ_cons, List.sum_cons]
      omega

theorem completeCount_le (len : Nat) (sizes : List Nat) : completeCount len sizes ≤ sizes.length := by
  unfold completeCount
  split <;> omega

/-! ## PROCESS -/

theorem beginProcess_cases (c : List Byte) (s : State) :
    (overCapacity s.params.wbufCap (s.leftover.length + c.length) = true ∧
      beginProcess c s = enterFault .bufferOverflow 0 0#32 s) ∨
    (overCapacity s.params.wbufCap (s.leftover.length + c.length) = false ∧
      beginProcess c s =
        { s with sampleCursor := 0#32, op := .scan { buf := s.leftover ++ c, off := 0, sizes := [] } }) := by
  unfold beginProcess
  split
  · exact .inl ⟨‹_›, rfl⟩
  · rename_i h
    exact .inr ⟨by simpa using h, rfl⟩

theorem acceptSamples_cases (k : Nat) (d : Dispatching) (s : State) :
    (cursorOverflows s.sampleCursor k = true ∧
      acceptSamples k d s = enterFault .capacityCursor (nextStart d) (hdrWord d.buf (nextStart d)) s) ∨
    (cursorOverflows s.sampleCursor k = false ∧
      acceptSamples k d s =
        { s with
          sampleCursor := BitVec.ofNat 32 (s.sampleCursor.toNat + k)
          frameCount := s.frameCount + 1#32
          op := .dispatch { d with next := d.next + 1 } }) := by
  unfold acceptSamples
  split
  · exact .inl ⟨‹_›, rfl⟩
  · rename_i h
    exact .inr ⟨by simpa using h, rfl⟩

/-- A DEC call that answers a next state: its event is in the log, its answer is drawn, and OK(k) or CAPACITY acted (R168, R169). -/
theorem decStep_next {d : Dispatching} {s t : State} (h : decStep d s = .next t) :
    (∃ k, nextAnswer s = .ok k ∧ t = acceptSamples k d (dropAnswer (emit (.dec (nextCall d s)) s))) ∨
    (nextAnswer s = .capacity ∧
      t = enterFault .capacityDecode (nextStart d) (hdrWord d.buf (nextStart d))
        (dropAnswer (emit (.dec (nextCall d s)) s))) := by
  unfold decStep at h
  split at h
  · exact .inl ⟨_, ‹_›, by simpa using h.symm⟩
  · exact .inr ⟨‹_›, by simpa using h.symm⟩
  · cases h
  · cases h

theorem decStep_not_fault (d : Dispatching) (s : State) (r : Fault) : decStep d s ≠ .fault r := by
  unfold decStep
  split <;> simp

/-- The outcome drawn is one of the inputs, or OK(k) or CAPACITY. -/
theorem nextAnswer_specified {s : State} (h : engineSpecified s) :
    nextAnswer s ≠ .otherOutcome ∧ nextAnswer s ≠ .wroteBuffer := by
  unfold nextAnswer
  split
  · exact h _ (by simp [*])
  · split <;> simp

/-- A DEC call answers a next state when the engine's outcome is one the spec gives a meaning. -/
theorem decStep_answers {s : State} (d : Dispatching) (h : engineSpecified s) : ∃ t, decStep d s = .next t := by
  obtain ⟨h1, h2⟩ := nextAnswer_specified h
  unfold decStep
  split
  · exact ⟨_, rfl⟩
  · exact ⟨_, rfl⟩
  · exact absurd ‹_› h1
  · exact absurd ‹_› h2

theorem interleave_cases (d : Dispatching) (s : State) :
    (interleaveOverflows s.sampleCursor s.pcmBufferSize = true ∧
      interleave d s = enterFault .capacityInterleave 0 0#32 s) ∨
    (interleaveOverflows s.sampleCursor s.pcmBufferSize = false ∧
      interleave d s =
        { s with
          log := .ilv s.sampleCursor :: s.log
          draws := s.draws + 1
          op := .output { len := 4 * s.sampleCursor.toNat, draw := s.draws } d.newLeft }) := by
  unfold interleave
  split
  · exact .inl ⟨‹_›, rfl⟩
  · rename_i h
    exact .inr ⟨by simpa using h, rfl⟩

theorem segmentBytes_length (seg : Segment) : (segmentBytes seg).length = seg.len := by
  simp [segmentBytes]

/-! ## TAGSKIP -/

theorem skipTag_cases (r : Nat) (c : List Byte) (s : State) :
    (r < c.length ∧ skipTag r c s = beginProcess (c.drop r) { s with tagRemain := 0#29, phase := .demux }) ∨
    (c.length ≤ r ∧
      skipTag r c s = { s with tagRemain := BitVec.ofNat 29 (r - c.length), phase := .tagSkip, op := .idle }) := by
  unfold skipTag
  split
  · exact .inl ⟨‹_›, rfl⟩
  · exact .inr ⟨by omega, rfl⟩

/-! ## The small steps of a transaction -/

/-- What one small step that answers a next state did, by the operation in progress (R60). -/
theorem advance_next {s t : State} (h : advance s = .next t) :
    (s.op = .idle ∧ t = s) ∨
    (∃ txn, s.op = .received txn ∧ t = takeTransaction txn s) ∨
    (s.op = .failing ∧ t = sendFail s) ∨
    (s.op = .ending ∧ t = sendEnd s) ∨
    (∃ c, s.op = .tagCheck c ∧ t = applyTag (id3Len c) c s) ∨
    (∃ p, s.op = .scan p ∧ t = applyHdr (hdrParse p.buf p.off) p s) ∨
    (∃ d, s.op = .dispatch d ∧ d.next < d.nc ∧ decStep d s = .next t) ∨
    (∃ d, s.op = .dispatch d ∧ d.nc ≤ d.next ∧ t = interleave d s) ∨
    (∃ seg newLeft, s.op = .output seg newLeft ∧ t = emitSegment seg newLeft s) ∨
    (∃ newLeft, s.op = .commit newLeft ∧ t = commitLeftover newLeft s) := by
  unfold advance at h
  split at h <;> rename_i e
  · exact .inl ⟨e, by simpa using h.symm⟩
  · exact .inr (.inl ⟨_, e, by simpa using h.symm⟩)
  · exact .inr (.inr (.inl ⟨e, by simpa using h.symm⟩))
  · exact .inr (.inr (.inr (.inl ⟨e, by simpa using h.symm⟩)))
  · exact .inr (.inr (.inr (.inr (.inl ⟨_, e, by simpa using h.symm⟩))))
  · exact .inr (.inr (.inr (.inr (.inr (.inl ⟨_, e, by simpa using h.symm⟩)))))
  · split at h
    · exact .inr (.inr (.inr (.inr (.inr (.inr (.inl ⟨_, e, ‹_›, h⟩))))))
    · exact .inr (.inr (.inr (.inr (.inr (.inr (.inr (.inl ⟨_, e, by omega, by simpa using h.symm⟩)))))))
  · exact .inr (.inr (.inr (.inr (.inr (.inr (.inr (.inr (.inl ⟨_, _, e, by simpa using h.symm⟩))))))))
  · exact .inr (.inr (.inr (.inr (.inr (.inr (.inr (.inr (.inr ⟨_, e, by simpa using h.symm⟩))))))))

theorem advance_not_fault (s : State) (r : Fault) : advance s ≠ .fault r := by
  unfold advance
  split
  · simp
  · simp
  · simp
  · simp
  · simp
  · simp
  · split
    · exact decStep_not_fault _ _ _
    · simp
  · simp
  · simp

/-- A small step answers a next state when the decode engine's outcomes are ones the spec gives a meaning. -/
theorem advance_answers {s : State} (h : engineSpecified s) : ∃ t, advance s = .next t := by
  unfold advance
  split
  · exact ⟨_, rfl⟩
  · exact ⟨_, rfl⟩
  · exact ⟨_, rfl⟩
  · exact ⟨_, rfl⟩
  · exact ⟨_, rfl⟩
  · exact ⟨_, rfl⟩
  · split
    · exact decStep_answers _ h
    · exact ⟨_, rfl⟩
  · exact ⟨_, rfl⟩
  · exact ⟨_, rfl⟩

theorem drive_zero (s : State) : drive 0 s = .next s := rfl

/-- Between transactions there is no small step to make. -/
theorem drive_idle (n : Nat) {s : State} (h : s.op = .idle) : drive n s = .next s := by
  cases n with
  | zero => rfl
  | succ n => simp [drive, h]

/-- One small step, then the rest. -/
theorem drive_succ (n : Nat) {s t : State} (h : s.op ≠ .idle) (ha : advance s = .next t) :
    drive (n + 1) s = drive n t := by
  simp [drive, h, ha]

/-- What every small step keeps holds at the end of the small steps. -/
theorem drive_keeps {P : State → Prop} (hstep : ∀ s t, P s → advance s = .next t → P t) {n : Nat} {s t : State}
    (hs : P s) (h : drive n s = .next t) : P t := by
  induction n generalizing s with
  | zero =>
    simp only [drive, Host.Outcome.next.injEq] at h
    exact h ▸ hs
  | succ n ih =>
    unfold drive at h
    split at h
    · simp only [Host.Outcome.next.injEq] at h
      exact h ▸ hs
    · split at h
      · exact ih (hstep _ _ hs ‹_›) h
      · cases h
      · cases h

/-- The small steps of a transaction never stop with a fault of the model. -/
theorem drive_not_fault (n : Nat) (s : State) (r : Fault) : drive n s ≠ .fault r := by
  induction n generalizing s with
  | zero => simp [drive]
  | succ n ih =>
    unfold drive
    split
    · simp
    · split
      · exact ih _
      · exact absurd ‹_› (advance_not_fault s _)
      · simp

/-! ## A transaction as a whole -/

/-- What `enterFault` writes does not depend on the operation it ends. -/
theorem enterFault_ignores_op (code : FaultCode) (off : Nat) (h : Word32) (s : State) (op : Op) :
    enterFault code off h { s with op := op } = enterFault code off h s := rfl

/-- Small steps from a begun fault entry are the whole fault entry (R222). -/
theorem drive_enterFault (n : Nat) (code : FaultCode) (off : Nat) (h : Word32) (s : State) :
    drive (n + 1) (enterFault code off h s) = .next (raise code off h s) :=
  (drive_succ n Op.noConfusion (advance_enterFault code off h s)).trans (drive_idle n rfl)

/-- Small steps from a stream end send END (R204). -/
theorem drive_endStream (n : Nat) (s : State) : drive (n + 1) (endStream s) = .next (sendEnd (endStream s)) :=
  (drive_succ n Op.noConfusion rfl).trans (drive_idle n rfl)

/-- In FAULTED no transaction is taken (R208). -/
theorem runTransaction_faulted {txn : Txn} {s : State} (h : s.phase = .faulted) : runTransaction txn s = .next s := if_pos h

/-- Outside FAULTED a transaction is what taking it does first, and then small steps; the first takes one of `driveFuel`. -/
theorem runTransaction_take (txn : Txn) {s : State} (h : s.phase ≠ .faulted) :
    ∃ n, driveFuel txn s = n + 3 ∧
      runTransaction txn s = drive (n + 2) (takeTransaction txn { s with op := .received txn }) := by
  obtain ⟨n, hn⟩ : ∃ n, driveFuel txn s = n + 3 := by
    cases txn <;> exact ⟨_, rfl⟩
  refine ⟨n, hn, ?_⟩
  rw [runTransaction, if_neg h, hn]
  exact drive_succ _ Op.noConfusion rfl

/-- A transaction whose taking is a fault entry answers that fault entry (R207, R209). -/
theorem runTransaction_fault {txn : Txn} {s : State} {code : FaultCode} (h : s.phase ≠ .faulted)
    (ht : takeTransaction txn { s with op := .received txn } = enterFault code 0 0#32 s) :
    runTransaction txn s = .next (raise code 0 0#32 s) := by
  obtain ⟨n, -, e⟩ := runTransaction_take txn h
  rw [e, ht, drive_enterFault]

/-- What every small step keeps, and taking the transaction keeps, holds when the transaction is over. -/
theorem runTransaction_keeps {P : State → Prop} (hstep : ∀ a b, P a → advance a = .next b → P b) {txn : Txn} {s t : State}
    (hs : P s) (hreceived : P { s with op := .received txn }) (h : runTransaction txn s = .next t) : P t := by
  unfold runTransaction at h
  split at h
  · simp only [Host.Outcome.next.injEq] at h
    exact h ▸ hs
  · exact drive_keeps hstep hreceived h

end Sys2Proof.Machine
end

