-- ==== Sys2Proof/Laws/PerInstr.lean ====
section
/-! SUPPORT. The form of every instruction's encoding: its format's space and its number of bytes (R70, R78, R81, R86). -/

namespace Sys2Proof.Laws

/-- The form a well-formed instruction's encoding has: four bytes of a working buffer; 1 to 10 bytes of a first chunk; a
transaction with its tag byte first; a host line of 32 bits at an aligned offset of the window, or the reset input. -/
def EncodingForm.Statement (i : Instr) : Prop :=
  i.wellFormed = true →
    match encode i with
    | .hdr bytes => bytes.length = 4
    | .tag bytes => 1 ≤ bytes.length ∧ bytes.length ≤ 10
    | .txn bytes => ∃ tag rest, bytes = tag :: rest ∧ (rest = [] ∨ tag = Config.chunkTag ∧ 4 ≤ rest.length)
    | .access (.send _) => False
    | .access (.read bits a) => bits = 32 ∧ a % 4 = 0 ∧ a ≤ 0x3C
    | .access (.write bits a _) => bits = 32 ∧ a % 4 = 0 ∧ a ≤ 0x3C
    | .access .reset => True

theorem EncodingForm.hdrBadBitrate0 (prot : BitVec 1) (si : BitVec 2) (pad priv : BitVec 1) (b3 : Byte) :
    EncodingForm.Statement (.hdrBadBitrate0 prot si pad priv b3) := fun _ => rfl

theorem EncodingForm.hdrBadBitrate15 (prot : BitVec 1) (si : BitVec 2) (pad priv : BitVec 1) (b3 : Byte) :
    EncodingForm.Statement (.hdrBadBitrate15 prot si pad priv b3) := fun _ => rfl

theorem EncodingForm.hdrBadSampleRate (prot : BitVec 1) (bi : BitVec 4) (pad priv : BitVec 1) (b3 : Byte) :
    EncodingForm.Statement (.hdrBadSampleRate prot bi pad priv b3) := fun _ => rfl

theorem EncodingForm.hdrFrameL3 (prot : BitVec 1) (bi : BitVec 4) (si : BitVec 2) (pad priv : BitVec 1) (b3 : Byte) :
    EncodingForm.Statement (.hdrFrameL3 prot bi si pad priv b3) := fun _ => rfl

theorem EncodingForm.hdrBadVersionLayer (b1 b2 b3 : Byte) : EncodingForm.Statement (.hdrBadVersionLayer b1 b2 b3) := fun _ => rfl

theorem EncodingForm.hdrNosync (b0 b1 b2 b3 : Byte) : EncodingForm.Statement (.hdrNosync b0 b1 b2 b3) := fun _ => rfl

theorem EncodingForm.tagPresent (tail : TagTail) : EncodingForm.Statement (.tagPresent tail) := by
  intro h
  cases tail with
  | full => simp [encode, TagTail.bytes, Config.id3Magic]
  | short bytes =>
    simp only [Instr.wellFormed, decide_eq_true_eq] at h
    simp only [encode, TagTail.bytes, Config.id3Magic, List.cons_append, List.nil_append, List.length_cons]
    omega

theorem EncodingForm.tagAbsent (head : List Byte) : EncodingForm.Statement (.tagAbsent head) := by
  intro h
  simp only [Instr.wellFormed, Bool.and_eq_true, decide_eq_true_eq] at h
  exact ⟨h.1.1, by omega⟩

theorem EncodingForm.chunk (data : List Byte) : EncodingForm.Statement (.chunk data) :=
  fun _ => ⟨Config.chunkTag, _, rfl, .inr ⟨rfl, by simp [bytesOf32]⟩⟩

theorem EncodingForm.eos : EncodingForm.Statement .eos := fun _ => ⟨Config.eosTag, [], rfl, .inl rfl⟩

theorem EncodingForm.txnIllegal (tag : Byte) : EncodingForm.Statement (.txnIllegal tag) := fun _ => ⟨tag, [], rfl, .inl rfl⟩

theorem EncodingForm.rd32 (a : Nat) : EncodingForm.Statement (.rd32 a) := by
  intro h
  simpa [Instr.wellFormed, windowOffset, encode] using h

theorem EncodingForm.wr32 (a : Nat) (v : Word32) : EncodingForm.Statement (.wr32 a v) := by
  intro h
  simpa [Instr.wellFormed, windowOffset, encode] using h

theorem EncodingForm.reset : EncodingForm.Statement .reset := fun _ => trivial

end Sys2Proof.Laws
end

