-- ==== Sys2Proof/Laws/Step.lean ====
section
/-! SUPPORT. What the step selects, and where the meanings apply. -/

namespace Sys2Proof.Machine

/-- A transaction or a register access that answers a next state was taken between transactions (R58). -/
theorem betweenTransactions_next {s t : State} {answer : Answer} (h : betweenTransactions s answer = .next t) :
    s.op = .idle ∧ answer = .next t := by
  unfold betweenTransactions at h
  split at h
  · exact ⟨‹_›, h⟩
  · cases h

/-- A header row that answers a next state acted on a scan. -/
theorem onScan_next {s t : State} {effect : Scan → State} (h : onScan s effect = .next t) :
    ∃ p, s.op = .scan p ∧ t = finishFault (effect p) := by
  unfold onScan at h
  split at h
  · exact ⟨_, ‹_›, by simpa using h.symm⟩
  · cases h

/-- A tag row that answers a next state acted on a chunk whose ID3v2 check was to be made. -/
theorem onTagCheck_next {s t : State} {effect : List Byte → State} (h : onTagCheck s effect = .next t) :
    ∃ c, s.op = .tagCheck c ∧ t = finishFault (effect c) := by
  unfold onTagCheck at h
  split at h
  · exact ⟨_, ‹_›, by simpa using h.symm⟩
  · cases h

theorem selectHost_cases (s : State) :
    (∃ i host, selectHost s = .run i { s with host := host }) ∨
    (∃ rx host, selectHost s = .arrive { s with rx := rx, host := host }) ∨
    selectHost s = .wait ∨ ∃ r, selectHost s = .refuse r := by
  unfold selectHost
  split
  · exact .inr (.inr (.inl rfl))
  · exact .inr (.inl ⟨_, _, rfl⟩)
  · split
    · exact .inl ⟨_, _, rfl⟩
    · exact .inr (.inr (.inr ⟨_, rfl⟩))

/-- Selecting changes nothing of CORE: only bytes on the input port and lines of the host are taken. -/
theorem select_cases (s : State) :
    (∃ i rx host, select s = .run i { s with rx := rx, host := host }) ∨
    select s = .internal ∨
    (∃ rx host, select s = .arrive { s with rx := rx, host := host }) ∨
    select s = .wait ∨ ∃ r, select s = .refuse r := by
  have hhost : (∃ i rx host, selectHost s = .run i { s with rx := rx, host := host }) ∨ selectHost s = .internal ∨
      (∃ rx host, selectHost s = .arrive { s with rx := rx, host := host }) ∨
      selectHost s = .wait ∨ ∃ r, selectHost s = .refuse r := by
    rcases selectHost_cases s with ⟨i, host, h⟩ | h
    · exact .inl ⟨i, s.rx, host, h⟩
    · exact .inr (.inr h)
  unfold select
  split
  · unfold selectIdle
    split
    · exact hhost
    · split
      · exact .inl ⟨_, _, s.host, rfl⟩
      · exact hhost
  · exact .inr (.inl rfl)
  · exact .inr (.inl rfl)
  · exact .inr (.inl rfl)
  · split
    · exact .inl ⟨_, s.rx, s.host, rfl⟩
    · exact .inr (.inl rfl)
  · split
    · exact .inl ⟨_, s.rx, s.host, rfl⟩
    · exact .inr (.inl rfl)
  · exact .inr (.inl rfl)
  · exact .inr (.inl rfl)
  · exact .inr (.inl rfl)

/-- A transaction is one of the TXN8 rows. -/
theorem transactionOf_eq_some {i : Instr} {txn : Txn} (h : transactionOf i = some txn) :
    (∃ data, i = .chunk data ∧ txn = .chunk data) ∨ (i = .eos ∧ txn = .eos) ∨ ∃ tag, i = .txnIllegal tag ∧ txn = .illegal tag := by
  cases i <;> simp only [transactionOf, reduceCtorEq, Option.some.injEq] at h
  case chunk data => exact .inl ⟨data, rfl, h.symm⟩
  case eos => exact .inr (.inl ⟨rfl, h.symm⟩)
  case txnIllegal tag => exact .inr (.inr ⟨tag, rfl, h.symm⟩)

/-- Beginning an instruction that answers a next state takes a transaction or executes the instruction. -/
theorem beginInstr_next {i : Instr} {s t : State} (h : beginInstr i s = .next t) :
    (∃ txn, transactionOf i = some txn ∧ t = { s with op := .received txn }) ∨ (transactionOf i = none ∧ exec i s = .next t) := by
  unfold beginInstr at h
  split at h
  · exact .inl ⟨_, ‹_›, by simpa using h.symm⟩
  · exact .inr ⟨‹_›, h⟩

/-- What happens next, said once: an instruction runs on a state that differs in the outside world only, a small step is made, bytes
arrive, or nothing is there. -/
theorem perform_next {run : Instr → State → Answer} {s t : State} (h : perform run s = .next t) :
    (∃ i rx host, select s = .run i { s with rx := rx, host := host } ∧ run i { s with rx := rx, host := host } = .next t) ∨
    (select s = .internal ∧ advance s = .next t) ∨
    (∃ rx host, select s = .arrive { s with rx := rx, host := host } ∧ t = { s with rx := rx, host := host }) ∨
    (select s = .wait ∧ t = s) := by
  unfold perform at h
  rcases select_cases s with ⟨i, rx, host, e⟩ | e | ⟨rx, host, e⟩ | e | ⟨r, e⟩ <;> rw [e] at h
  · exact .inl ⟨i, rx, host, e, h⟩
  · exact .inr (.inl ⟨e, h⟩)
  · exact .inr (.inr (.inl ⟨rx, host, e, by simpa using h.symm⟩))
  · exact .inr (.inr (.inr ⟨e, by simpa using h.symm⟩))
  · cases h

theorem withResets_next {resets : List Nat} {answer : Answer} {t : State} (h : withResets resets answer = .next t) :
    ∃ u, answer = .next u ∧ t = { u with resets := resets } := by
  cases answer with
  | next u => exact ⟨u, rfl, by simpa [withResets] using h.symm⟩
  | fault r => cases h
  | refused r => cases h

/-- A step that answers a next state, said once: no reset input is to come; or one acts; or one is to come and a small step is made or
the next input is taken (R250). -/
theorem step_next {s t : State} (h : step s = .next t) :
    (s.resets = [] ∧ quietStep s = .next t) ∨
    (∃ later, s.resets = 0 :: later ∧ t = resetCore { s with resets := later }) ∨
    (∃ k later u, s.resets = (k + 1) :: later ∧ smallStep s = .next u ∧ t = { u with resets := k :: later }) := by
  unfold step sequenceStep at h
  split at h
  · exact .inl ⟨‹_›, h⟩
  · exact .inr (.inl ⟨_, ‹_›, by simpa [exec, execReset] using h.symm⟩)
  · obtain ⟨u, hu, ht⟩ := withResets_next h
    exact .inr (.inr ⟨_, _, u, ‹_›, hu, ht⟩)

/-- In FAULTED, between transactions, only the host is served (R208). -/
theorem select_faulted {s : State} (hop : s.op = .idle) (hphase : s.phase = .faulted) : select s = selectHost s := by
  simp only [select, hop, selectIdle, hphase, if_true]

end Sys2Proof.Machine
end

