-- ==== Sys2Proof/Tests/Slice0.lean ====
section
/-! SUPPORT. Tests from the spec's own vectors (95_test_vectors.md) and encodings (30_encoding.md), the WellFormed smoke tests, and for every statement with hypotheses a state that meets them. -/

open Sys2Proof Sys2Proof.Machine Sys2Proof.Spec

namespace Sys2Proof.Tests

set_option Elab.async false

/-! ## Helpers -/

/-- The answer is a next state with a property. -/
def answers (p : State → Bool) : Answer → Bool
  | .next t => p t
  | .fault _ => false
  | .refused _ => false

theorem answers_next {p : State → Bool} {a : Answer} (h : answers p a = true) : ∃ t, a = .next t ∧ p t = true := by
  cases a with
  | next t => exact ⟨t, rfl, h⟩
  | fault r => cases h
  | refused r => cases h

/-- A state after reset with an unbounded working buffer and 65536 bytes of PCM buffer. -/
def base : State :=
  { State.reset with
    params := { wbufCap := none, leftoverRule := .tail, pcmBufferSizeReset := 0x00010000#32 }
    pcmBufferSize := 0x00100000#32 }

/-- The same in DEMUX, with a decode engine that answers OK(1152) twice. -/
def demux : State := { base with phase := .demux, decAnswers := [.ok 1152, .ok 1152] }

/-- The same in FAULTED with the record of a PROTOCOL fault. -/
def stopped : State := { base with phase := .faulted, faultCode := 0x0A#8, faultCat := 4#4 }

/-- A scan at offset 0 of some bytes. -/
def scanning (buf : List Byte) : State := { demux with op := .scan { buf := buf, off := 0, sizes := [] } }

/-- The ID3v2 check of a first chunk. -/
def checking (c : List Byte) : State := { base with op := .tagCheck c }

/-- `FRAME(FF FB 14 00, 96)` (R86; V-F05). -/
def frame96 : List Byte := [0xFF#8, 0xFB#8, 0x14#8, 0x00#8] ++ List.replicate 92 0#8

/-- `FRAME(FF FB 90 00, 417)` (R86; V-F01). -/
def frame417 : List Byte := [0xFF#8, 0xFB#8, 0x90#8, 0x00#8] ++ List.replicate 413 0#8

/-- Two complete frames of 417 bytes before their first DEC call. -/
def dispatching : Dispatching :=
  { buf := frame417 ++ frame417, sizes := [417, 417], starts := [0, 417, 834], nc := 2, ts := 834, fits := true, stop := .short
    newLeft := [], next := 0 }

/-- A state at the second DEC call, with what the first left in the cursor. -/
def atSecondCall (cursor : Word32) (answer : DecAnswer) : State :=
  { demux with
    sampleCursor := cursor, frameCount := 1#32, decAnswers := [answer], op := .dispatch { dispatching with next := 1 } }

/-! ## WellFormed refuses what no encoding carries -/

theorem smoke_hdrBadSampleRate : (Instr.hdrBadSampleRate 1#1 15#4 0#1 0#1 0#8).wellFormed = false := by decide
theorem smoke_hdrFrameL3_bitrate : (Instr.hdrFrameL3 1#1 0#4 0#2 0#1 0#1 0#8).wellFormed = false := by decide
theorem smoke_hdrFrameL3_sampleRate : (Instr.hdrFrameL3 1#1 9#4 3#2 0#1 0#1 0#8).wellFormed = false := by decide
theorem smoke_hdrBadVersionLayer : (Instr.hdrBadVersionLayer 0xFB#8 0#8 0#8).wellFormed = false := by decide
theorem smoke_hdrNosync : (Instr.hdrNosync 0xFF#8 0#8 0#8 0#8).wellFormed = false := by decide
theorem smoke_tagPresent : (Instr.tagPresent (.short [0#8, 0#8, 0#8, 0#8, 0#8, 0#8, 0#8])).wellFormed = false := by decide
theorem smoke_tagAbsent_empty : (Instr.tagAbsent []).wellFormed = false := by decide
theorem smoke_tagAbsent_long : (Instr.tagAbsent [0#8, 0#8, 0#8, 0#8]).wellFormed = false := by decide
theorem smoke_tagAbsent_magic : (Instr.tagAbsent [0x49#8, 0x44#8, 0x33#8]).wellFormed = false := by decide
theorem smoke_txnIllegal_chunk : (Instr.txnIllegal 0x01#8).wellFormed = false := by decide
theorem smoke_txnIllegal_eos : (Instr.txnIllegal 0x02#8).wellFormed = false := by decide
theorem smoke_rd32_aligned : (Instr.rd32 0x02).wellFormed = false := by decide
theorem smoke_wr32_window : (Instr.wr32 0x40 0#32).wellFormed = false := by decide

/-- A chunk longer than its 32-bit length field says. -/
theorem smoke_chunk (data : List Byte) (h : data.length = 2 ^ 32) : (Instr.chunk data).wellFormed = false := by
  simp [Instr.wellFormed, h]

/-! ## Words written out from the encodings (R71, R78, R81, R86) -/

/-- 11111111 1111101 1 0000 01 0 1 11000100. -/
theorem decode_hdrBadBitrate0 :
    decodeHdr 0b11111111111110110000010111000100#32 = .hdrBadBitrate0 1#1 1#2 0#1 1#1 0xC4#8 := by decide

/-- 11111111 1111101 0 1111 10 1 0 00000001. -/
theorem decode_hdrBadBitrate15 :
    decodeHdr 0b11111111111110101111101000000001#32 = .hdrBadBitrate15 0#1 2#2 1#1 0#1 0x01#8 := by decide

/-- 11111111 1111101 1 1001 11 0 0 00000000 (V-H07). -/
theorem decode_hdrBadSampleRate :
    decodeHdr 0b11111111111110111001110000000000#32 = .hdrBadSampleRate 1#1 9#4 0#1 0#1 0x00#8 := by decide

/-- 11111111 1111101 1 1110 10 1 0 00000000 (V-F06). -/
theorem decode_hdrFrameL3 :
    decodeHdr 0b11111111111110111110101000000000#32 = .hdrFrameL3 1#1 14#4 2#2 1#1 0#1 0x00#8 := by decide

/-- 11111111 11110011 10010000 00000000 (V-H04). -/
theorem decode_hdrBadVersionLayer :
    decodeHdr 0b11111111111100111001000000000000#32 = .hdrBadVersionLayer 0xF3#8 0x90#8 0x00#8 := by decide

/-- 11111110 11111011 10010000 00000000 (V-H03). -/
theorem decode_hdrNosync :
    decodeHdr 0b11111110111110111001000000000000#32 = .hdrNosync 0xFE#8 0xFB#8 0x90#8 0x00#8 := by decide

/-- 49 44 33 04 00 00 00 00 07 68 (V-T02). -/
theorem decode_tagPresent :
    decode (.tag [0x49#8, 0x44#8, 0x33#8, 0x04#8, 0x00#8, 0x00#8, 0x00#8, 0x00#8, 0x07#8, 0x68#8]) =
      .ok (.tagPresent (.full 0x04#8 0x00#8 0x00#8 0x00#8 0x00#8 0x07#8 0x68#8)) := by decide

/-- 49 44 34 (V-T12). -/
theorem decode_tagAbsent : decode (.tag [0x49#8, 0x44#8, 0x34#8]) = .ok (.tagAbsent [0x49#8, 0x44#8, 0x34#8]) := by decide

/-- 01 00 00 00 01 FF (P7), the next transaction's byte left on the port. -/
theorem decode_chunk :
    decodeTxn [0x01#8, 0x00#8, 0x00#8, 0x00#8, 0x01#8, 0xFF#8, 0x02#8] = .ok (.chunk [0xFF#8], [0x02#8]) := by decide

theorem decode_eos : decodeTxn [0x02#8] = .ok (.eos, []) := by decide
theorem decode_txnIllegal : decodeTxn [0x03#8, 0x02#8] = .ok (.txnIllegal 0x03#8, [0x02#8]) := by decide
theorem decode_rd32 : decode (.access (.read 32 0x04)) = .ok (.rd32 0x04) := by decide
theorem decode_wr32 : decode (.access (.write 32 0x20 0x00001000#32)) = .ok (.wr32 0x20 0x00001000#32) := by decide
theorem decode_reset : decode (.access .reset) = .ok .reset := by decide

/-- A chunk whose data has not all arrived is no transaction yet (R81). -/
theorem decode_incomplete :
    decodeTxn [0x01#8, 0x00#8, 0x00#8, 0x00#8, 0x02#8, 0xAA#8] = .error .incomplete := by decide

/-- R35: an access of 16 bits is none. -/
theorem decode_narrow : decode (.access (.read 16 0x04)) = .error (.accessWidth 16) := by decide

/-! ## One step of each instruction, against 95_test_vectors.md -/

/-- V-H05: FF FB 00 00. -/
theorem test_hdrBadBitrate0 :
    answers (fun t => t.phase = .faulted ∧ t.faultCode = 0x03#8 ∧ t.faultCat = 2#4 ∧ t.faultHdr = 0xFFFB0000#32)
      (step (scanning [0xFF#8, 0xFB#8, 0x00#8, 0x00#8])) = true := by decide +kernel

/-- V-H09: FF FB 0C 00, the bitrate index before the sample-rate index. -/
theorem test_hdrBadBitrate0_first :
    answers (fun t => t.faultCode = 0x03#8) (step (scanning [0xFF#8, 0xFB#8, 0x0C#8, 0x00#8])) = true := by decide +kernel

/-- V-H06: FF FB F0 00. -/
theorem test_hdrBadBitrate15 :
    answers (fun t => t.phase = .faulted ∧ t.faultCode = 0x03#8 ∧ t.log = [.out (.fail 0x03#8)])
      (step (scanning [0xFF#8, 0xFB#8, 0xF0#8, 0x00#8])) = true := by decide +kernel

/-- V-H07: FF FB 9C 00. -/
theorem test_hdrBadSampleRate :
    answers (fun t => t.faultCode = 0x04#8 ∧ t.faultHdr = 0xFFFB9C00#32) (step (scanning [0xFF#8, 0xFB#8, 0x9C#8, 0x00#8])) = true := by
  decide +kernel

/-- V-F06: FF FB EA 00 is 1441 bytes long. -/
theorem test_hdrFrameL3_largest :
    answers (fun t => t.op = .scan { buf := [0xFF#8, 0xFB#8, 0xEA#8, 0x00#8], off := 1441, sizes := [1441] })
      (step (scanning [0xFF#8, 0xFB#8, 0xEA#8, 0x00#8])) = true := by decide +kernel

/-- V-F09: FF FA 90 C4 is 417 bytes long: the protection bit and byte 3 do not matter. -/
theorem test_hdrFrameL3_ignored :
    answers (fun t => t.op = .scan { buf := [0xFF#8, 0xFA#8, 0x90#8, 0xC4#8], off := 417, sizes := [417] })
      (step (scanning [0xFF#8, 0xFA#8, 0x90#8, 0xC4#8])) = true := by decide +kernel

/-- V-H04: FF F3 90 00. -/
theorem test_hdrBadVersionLayer :
    answers (fun t => t.faultCode = 0x02#8 ∧ t.faultHdr = 0xFFF39000#32) (step (scanning [0xFF#8, 0xF3#8, 0x90#8, 0x00#8])) = true := by
  decide +kernel

/-- V-H10: FF 1B 90 00 is a fault and no end of the scan. -/
theorem test_hdrBadVersionLayer_byte1 :
    answers (fun t => t.phase = .faulted) (step (scanning [0xFF#8, 0x1B#8, 0x90#8, 0x00#8])) = true := by decide +kernel

/-- V-H02: 00 FB 90 00 ends the scan: nothing recorded, the whole buffer carried, no fault. -/
theorem test_hdrNosync :
    answers
      (fun t => t.phase = .demux ∧
        t.op = .dispatch
          { buf := [0x00#8, 0xFB#8, 0x90#8, 0x00#8], sizes := [], starts := [0], nc := 0, ts := 0, fits := true, stop := .nosync
            newLeft := [0x00#8, 0xFB#8, 0x90#8, 0x00#8], next := 0 })
      (step (scanning [0x00#8, 0xFB#8, 0x90#8, 0x00#8])) = true := by decide +kernel

/-- V-K04 with the header of V-T02: S = 1000, a chunk of 600 bytes. -/
theorem test_tagPresent :
    answers (fun t => t.phase = .tagSkip ∧ t.tagLen = 1010#29 ∧ t.tagRemain = 410#29 ∧ t.op = .idle)
      (step (checking ([0x49#8, 0x44#8, 0x33#8, 0x04#8, 0x00#8, 0x00#8, 0x00#8, 0x00#8, 0x07#8, 0x68#8]
        ++ List.replicate 590 0#8))) = true := by decide +kernel

/-- V-T05: 8 bytes of a header. -/
theorem test_tagPresent_short :
    answers (fun t => t.faultCode = 0x09#8 ∧ t.faultCat = 4#4 ∧ t.tagLen = 0#29)
      (step (checking [0x49#8, 0x44#8, 0x33#8, 0x03#8, 0x00#8, 0x00#8, 0x00#8, 0x00#8])) = true := by decide +kernel

/-- V-T06: 49 44. -/
theorem test_tagAbsent_prefix :
    answers (fun t => t.faultCode = 0x09#8) (step (checking [0x49#8, 0x44#8])) = true := by decide +kernel

/-- V-T09: 49 45 is no tag; the chunk goes to PROCESS. -/
theorem test_tagAbsent :
    answers (fun t => t.phase = .demux ∧ t.tagLen = 0#29 ∧ t.op = .scan { buf := [0x49#8, 0x45#8], off := 0, sizes := [] })
      (step (checking [0x49#8, 0x45#8])) = true := by decide +kernel

/-- V-M08: a frame and 300 bytes of the next. -/
theorem test_chunk_process :
    answers
      (fun t => t.leftover.length = 300 ∧ t.leftoverLen = 300#32 ∧ t.sampleCursor = 1152#32 ∧ t.frameCount = 1#32 ∧
        t.segCount = 1#32 ∧ t.log.length = 3 ∧ t.log.take 2 = [.out (.segment { len := 4608, draw := 1 }), .ilv 1152#32])
      (exec (.chunk (frame417 ++ frame417.take 300)) demux) = true := by decide +kernel

/-- P3, second chunk: the tag ends at byte 410 and the first header after it is MPEG-1 Layer II. -/
theorem test_chunk_tagSkip :
    answers
      (fun t => t.phase = .faulted ∧ t.tagLen = 1010#29 ∧ t.tagRemain = 0#29 ∧ statusWord t = 0x00020204#32 ∧ t.faultOff = 0#32 ∧
        t.faultHdr = 0xFFFD9000#32 ∧ t.segCount = 0#32 ∧ t.log = [.out (.fail 0x02#8)])
      (exec (.chunk (List.replicate 410 0#8 ++ [0xFF#8, 0xFD#8, 0x90#8, 0x00#8] ++ List.replicate 86 0#8))
        { base with phase := .tagSkip, tagLen := 1010#29, tagRemain := 410#29 }) = true := by decide +kernel

/-- V-E03: EOS with 78 tag bytes to come. -/
theorem test_eos_truncated :
    answers (fun t => statusWord t = 0x00010104#32 ∧ t.log = [.out (.fail 0x01#8)])
      (exec .eos { base with phase := .tagSkip, tagLen := 138#29, tagRemain := 78#29 }) = true := by decide +kernel

/-- V-E04: EOS in DEMUX keeps the leftover. -/
theorem test_eos_demux :
    answers (fun t => t.phase = .ended ∧ t.leftoverLen = 3#32 ∧ t.log = [.out .endOfStream])
      (exec .eos { demux with leftover := [0xFF#8, 0xFB#8, 0x90#8], leftoverLen := 3#32 }) = true := by decide +kernel

/-- V-E07: tag byte 03 on the input port. -/
theorem test_txnIllegal :
    answers (fun t => statusWord t = 0x00040A04#32 ∧ t.rx = []) (step { demux with rx := [0x03#8] }) = true := by decide +kernel

/-- P6: STATUS after CAPACITY_INTERLEAVE reads 0x00030604. -/
theorem test_rd32_status :
    answers (fun t => t.log = [.readData 0x04 0x00030604#32])
      (exec (.rd32 0x04) { base with phase := .faulted, faultCode := 0x06#8, faultCat := 3#4 }) = true := by decide +kernel

/-- V-W05: a write of PCM_BUFFER_SIZE in TAG_HEAD. -/
theorem test_wr32_tagHead :
    answers (fun t => t.pcmBufferSize = 0x00001000#32) (exec (.wr32 0x20 0x00001000#32) base) = true := by decide +kernel

/-- V-W06: the same in DEMUX has no effect. -/
theorem test_wr32_demux :
    answers (fun t => t.pcmBufferSize = 0x00100000#32) (exec (.wr32 0x20 0x00001000#32) demux) = true := by decide +kernel

/-- V-W08: the reset of a faulted CORE. -/
theorem test_reset :
    answers (fun t => t.phase = .tagHead ∧ statusWord t = 0#32 ∧ t.pcmBufferSize = 0x00010000#32) (exec .reset stopped) = true := by
  decide +kernel

/-! ## The small steps that are no row of the table -/

/-- V-H15: 3 bytes end the scan with SHORT. -/
theorem test_short :
    answers
      (fun t => t.op = .dispatch
        { buf := [0xFF#8, 0xFB#8, 0x90#8], sizes := [], starts := [0], nc := 0, ts := 0, fits := true, stop := .short
          newLeft := [0xFF#8, 0xFB#8, 0x90#8], next := 0 })
      (step (scanning [0xFF#8, 0xFB#8, 0x90#8])) = true := by decide +kernel

/-- V-Q03: CAPACITY at the second frame. -/
theorem test_dec_capacity :
    answers
      (fun t => t.phase = .faulted ∧ t.op = .failing ∧ t.faultCode = 0x05#8 ∧ t.faultOff = 417#32 ∧ t.faultHdr = 0xFFFB9000#32 ∧ t.sampleCursor = 1152#32 ∧
        t.frameCount = 1#32)
      (step (atSecondCall 1152#32 .capacity)) = true := by decide +kernel

/-- V-Q04: OK(1) after a cursor of 2^32 - 1. -/
theorem test_dec_cursor :
    answers (fun t => t.faultCode = 0x07#8 ∧ t.faultOff = 417#32 ∧ t.sampleCursor = 0xFFFFFFFF#32 ∧ t.frameCount = 1#32)
      (step (atSecondCall 0xFFFFFFFF#32 (.ok 1))) = true := by decide +kernel

/-- V-Q02: 9215 bytes are one too few for 2304 sample pairs. -/
theorem test_interleave_capacity :
    answers (fun t => t.faultCode = 0x06#8 ∧ t.sampleCursor = 2304#32 ∧ t.segCount = 0#32)
      (step { demux with
        pcmBufferSize := 9215#32, sampleCursor := 2304#32, op := .dispatch { dispatching with next := 2 } }) = true := by
  decide +kernel

/-- V-M08 under SHORTFALL: 117 bytes are carried. -/
theorem test_shortfall :
    (leftoverOf .shortfall (frame417 ++ frame417.take 300) [417, 417]).length = 117 := by decide +kernel

/-- R250: an EOS in DEMUX whose reset comes before its END sends none: taken, ended, reset. -/
theorem test_reset_abandons_eos :
    answers (fun t => t.phase = .tagHead ∧ t.op = .idle ∧ t.log = [] ∧ t.rx = [])
      (steps 3 { demux with rx := [0x02#8], resets := [2] }) = true := by decide +kernel

/-- R250: a CAPACITY fault whose reset comes before its OUT(FAIL) leaves the DEC call and no message. -/
theorem test_reset_abandons_fail :
    answers (fun t => t.phase = .tagHead ∧ t.faultCode = 0#8 ∧ t.log.length = 1)
      (steps 2 { atSecondCall 1152#32 .capacity with resets := [1] }) = true := by decide +kernel

/-- From reset with nothing sent, CORE waits (R251, R230). -/
theorem test_reset_waits : step State.reset = .next State.reset := rfl

/-! ## Witnesses: states and operands that meet all hypotheses of a statement together, each clause at a boundary -/

/-- The invariant holds of `demux`. -/
theorem demux_inv (s : State) (h : s = { demux with rx := s.rx, host := s.host, resets := s.resets, op := s.op }) (ho : OpInv s) :
    CoreInv s := by
  rw [h]
  rw [h] at ho
  exact ⟨rfl, fun _ => rfl, rfl, .inl rfl, Nat.le_refl 0, fun _ => rfl, by simp [demux], by simp [demux], by simp [demux],
    fun _ => ⟨rfl, rfl, rfl, rfl⟩, ho⟩

theorem witness_ResetLeavesSpecValues : ∃ s : State, s.rx = [] ∧ s.host = [] ∧ s.resets = [] ∧ s ≠ resetCore s :=
  ⟨stopped, by decide +kernel⟩

theorem witness_SoftResetEqualsResetInput :
    stopped.op = .idle ∧ (0x00000001#32)[0] = true ∧ (0xFFFFFFFF#32)[0] = true ∧ (0x00000002#32)[0] = false ∧
      resetCore stopped ≠ stopped := by decide +kernel

/-- In the middle of a scan, and in FAULTED. -/
theorem witness_ResetInputActsAtOnce :
    ({ scanning frame96 with resets := [0, 3] } : State).resets = 0 :: [3] ∧ ({ stopped with resets := [0] } : State).resets = 0 :: [] :=
  ⟨rfl, rfl⟩

/-- A CHUNK, an EOS and an illegal transaction on the port, each abandoned when it was just taken (k = 0), and when it had begun to be
processed, before the END of the EOS and the FAIL of the illegal one (k = 1). -/
theorem witness_ResetAbandonsTransaction (k : Nat) (hk : k = 0 ∨ k = 1) (i : Instr) (txn : Txn)
    (ht : (i, txn) ∈ [(.chunk [0xFF#8], .chunk [0xFF#8]), (.eos, .eos), (.txnIllegal 0x03#8, .illegal 0x03#8)]) :
    ∃ (s m : State) (rest : List Byte) (later : List Nat),
      s.op = .idle ∧ s.phase ≠ .faulted ∧ s.resets = (k + 1) :: later ∧ decodeTxn s.rx = .ok (i, rest) ∧
      transactionOf i = some txn ∧ drive k { s with rx := rest, op := .received txn } = .next m ∧ m.op ≠ .idle := by
  have h : answers (fun m => m.op ≠ .idle) (drive k { demux with resets := [k + 1], op := .received txn }) = true := by
    simp only [List.mem_cons, Prod.mk.injEq, List.not_mem_nil, or_false] at ht
    rcases hk with rfl | rfl <;> rcases ht with ⟨rfl, rfl⟩ | ⟨rfl, rfl⟩ | ⟨rfl, rfl⟩ <;> decide +kernel
  obtain ⟨m, hm, hop⟩ := answers_next h
  have hop' : m.op ≠ .idle := by simpa using hop
  have hd : ∃ bytes, decodeTxn bytes = .ok (i, []) ∧ transactionOf i = some txn := by
    simp only [List.mem_cons, Prod.mk.injEq, List.not_mem_nil, or_false] at ht
    rcases ht with ⟨rfl, rfl⟩ | ⟨rfl, rfl⟩ | ⟨rfl, rfl⟩
    · exact ⟨[0x01#8, 0x00#8, 0x00#8, 0x00#8, 0x01#8, 0xFF#8], by decide, rfl⟩
    · exact ⟨[0x02#8], by decide, rfl⟩
    · exact ⟨[0x03#8], by decide, rfl⟩
  obtain ⟨bytes, hb, htx⟩ := hd
  exact ⟨{ demux with rx := bytes, resets := [k + 1] }, m, [], [], rfl, Phase.noConfusion, rfl, hb, htx, hm, hop'⟩

/-- The taking of a transaction, its first small step, a fault entry and a stream end in progress, and a scan. -/
theorem witness_TransactionGoesStepByStep :
    (demux.op = .idle ∧ demux.phase ≠ .faulted ∧ decodeTxn [0x02#8] = .ok (.eos, []) ∧ transactionOf .eos = some .eos) ∧
      (∀ op ∈ [Op.received .eos, .failing, .ending], ({ demux with op := op, resets := [1] } : State).resets = (0 + 1) :: []) ∧
      (scanning frame96).op ≠ .idle ∧ answers (fun _ => true) (advance (scanning frame96)) = true := by decide +kernel

/-- Every offset of the window at which a value is stated, the first and last reserved offset, and both kinds of refusal. -/
theorem witness_RegisterReadReturnsWindow :
    demux.op = .idle ∧
      (∀ a ∈ [0x00, 0x04, 0x08, 0x0C, 0x10, 0x14, 0x18, 0x1C, 0x20, 0x24, 0x28, 0x2C, 0x3C], a % 4 = 0 ∧ a ≤ 0x3C) ∧
      0x2C ≤ 0x2C ∧ 0x02 % 4 ≠ 0 ∧ 0x3C < 0x40 := by decide

theorem witness_RegisterWriteEffects :
    base.op = .idle ∧ base.phase = .tagHead ∧ (0x02 % 4 ≠ 0 ∧ 0x3C < 0x40) ∧ (0x00000001#32)[0] = true ∧
      (demux.op = .idle ∧ demux.phase ≠ .tagHead) ∧
      (∀ a ∈ [0x00, 0x04, 0x3C], a % 4 = 0 ∧ a ≤ 0x3C ∧ ¬ (a = 0x00 ∧ (0x00000002#32)[0] = true) ∧ a ≠ 0x20) := by decide

theorem witness_AccessesWithoutMeaningRefused :
    (∀ a ∈ [0x2C, 0x3C], a % 4 = 0 ∧ 0x2C ≤ a ∧ a ≤ 0x3C) ∧ (∀ a ∈ [0x04, 0x1C, 0x24, 0x28], a % 4 = 0 ∧ 0x04 ≤ a ∧ a ≤ 0x28 ∧ a ≠ 0x20) ∧
      (0x3E % 4 ≠ 0 ∧ 0x3C < 0x40) ∧ 16 ≠ 32 ∧
      ({ base with host := [.read 16 0x04] } : State).host = .read 16 0x04 :: [] ∧
      ({ base with host := [.write 16 0x04 0#32] } : State).host = .write 16 0x04 0#32 :: [] ∧
      base.op = .idle ∧ base.resets = [] ∧ base.rx = [] := by decide +kernel

/-- Each of the three ways, the second with a reset line and with the reset input, the last with the write of V-W05. -/
theorem witness_PcmBufferSizeWriters :
    answers (fun t => t.pcmBufferSize = base.pcmBufferSize) (step base) = true ∧
      ({ base with host := [.reset] } : State).host.head? = some .reset ∧
      answers (fun t => t.pcmBufferSize = base.params.pcmBufferSizeReset) (step { base with host := [.reset] }) = true ∧
      answers (fun t => t.pcmBufferSize = base.params.pcmBufferSizeReset) (step { base with resets := [0] }) = true ∧
      answers (fun t => t.pcmBufferSize = 0x1000#32) (step { base with host := [.write 32 0x20 0x1000#32] }) = true := by
  decide +kernel

theorem witness_FaultedTakesNoTransaction :
    stopped.op = .idle ∧ stopped.phase = .faulted ∧ stopped.resets = [] ∧ stopped.host = [] := by decide

/-- Every phase but FAULTED. -/
theorem witness_IllegalTransactionFaults :
    ∀ p ∈ [Phase.tagHead, .tagSkip, .demux, .ended], ({ base with phase := p } : State).op = .idle ∧
      ({ base with phase := p } : State).phase ≠ .faulted := by decide

theorem witness_TransactionAfterEndFaults :
    ({ demux with phase := .ended } : State).op = .idle ∧ ({ demux with phase := .ended } : State).phase = .ended := by decide

theorem witness_EosInTagHead : base.op = .idle ∧ base.phase = .tagHead := by decide

/-- TAG_REMAIN 1 and 0. -/
theorem witness_EosInTagSkip :
    ∀ s ∈ [{ base with phase := .tagSkip, tagLen := 10#29, tagRemain := 1#29 }], s.op = .idle ∧ s.phase = .tagSkip ∧
      0 < s.tagRemain.toNat ∧ ({ s with tagRemain := 0#29 } : State).tagRemain.toNat = 0 := by decide

theorem witness_EosInDemux : demux.op = .idle ∧ demux.phase = .demux := by decide

/-- A transaction and a reset input, from a state of the invariant: the phase changes by a row of R200 and by reset. -/
theorem witness_PhaseTransitions :
    CoreInv { demux with rx := [0x02#8] } ∧ answers (fun t => t.phase = .ended) (step { demux with rx := [0x02#8] }) = true ∧
      CoreInv { demux with resets := [0] } ∧ answers (fun t => t.phase = .tagHead) (step { demux with resets := [0] }) = true :=
  ⟨demux_inv _ rfl trivial, by decide +kernel, demux_inv _ rfl trivial, by decide +kernel⟩

/-- The invariant holds of `base`, whose PHASE is TAG_HEAD. -/
theorem base_inv (s : State) (h : s = { base with rx := s.rx, host := s.host, resets := s.resets, op := s.op }) (ho : OpInv s) :
    CoreInv s := by
  rw [h]
  rw [h] at ho
  exact ⟨rfl, fun _ => rfl, rfl, .inl rfl, Nat.le_refl 0, fun _ => rfl, fun _ => rfl, fun _ => rfl, by simp [base, State.reset],
    fun _ => ⟨rfl, rfl, rfl, rfl⟩, ho⟩

/-- The header of V-T01 (S = 0) as a first CHUNK on the port, and under its check; and a reset. -/
theorem witness_TagLengthWrittenByFirstChunk :
    (CoreInv { base with rx := [0x01#8, 0#8, 0#8, 0#8, 10#8, 0x49#8, 0x44#8, 0x33#8, 3#8, 0#8, 0#8, 0#8, 0#8, 0#8, 0#8] } ∧
        answers (fun t => t.tagLen = 10#29)
          (step { base with rx := [0x01#8, 0#8, 0#8, 0#8, 10#8, 0x49#8, 0x44#8, 0x33#8, 3#8, 0#8, 0#8, 0#8, 0#8, 0#8, 0#8] }) = true) ∧
      (CoreInv (checking [0x49#8, 0x44#8, 0x33#8, 3#8, 0#8, 0#8, 0#8, 0#8, 0#8, 0#8]) ∧
        answers (fun t => t.tagLen = 10#29) (step (checking [0x49#8, 0x44#8, 0x33#8, 3#8, 0#8, 0#8, 0#8, 0#8, 0#8, 0#8])) = true) ∧
      CoreInv { base with resets := [0] } ∧ answers (fun t => t.tagLen = 0#29) (step { base with resets := [0] }) = true :=
  ⟨⟨base_inv _ rfl trivial, by decide +kernel⟩, ⟨base_inv _ rfl ⟨rfl, by decide⟩, by decide +kernel⟩, base_inv _ rfl trivial,
    by decide +kernel⟩

theorem witness_FaultEntryWritesRecord : 0 < 2 ^ 32 ∧ 2 ^ 32 - 1 < 2 ^ 32 := by decide

/-- Reset, a register read, and bytes that arrive. -/
theorem witness_FaultedUntilReset :
    stopped.op = .idle ∧ stopped.phase = .faulted ∧
      answers (fun t => t.phase = .tagHead) (step { stopped with host := [.write 32 0x00 1#32] }) = true ∧
      answers (fun t => t.log = [.readData 0x00 0#32]) (step { stopped with host := [.read 32 0x00] }) = true ∧
      answers (fun t => t.rx = [0x02#8]) (step { stopped with host := [.send [0x02#8]] }) = true := by decide +kernel

/-- CAPACITY at the second of two frames. -/
theorem witness_FaultKeepsCarriedState :
    ∃ (s t : State) (c : List Byte), s.op = .idle ∧ s.phase = .demux ∧ exec (.chunk c) s = .next t ∧ t.phase = .faulted := by
  have h : answers (fun t => t.phase = .faulted)
      (exec (.chunk (frame96 ++ frame96)) { demux with decAnswers := [.ok 1152, .capacity] }) = true := by decide +kernel
  obtain ⟨t, ht, hp⟩ := answers_next h
  exact ⟨_, t, _, rfl, rfl, ht, by simpa using hp⟩

/-- A good frame, then each of the three bad headers (V-M11 for the first). -/
theorem witness_BadHeaderFaultsBeforeDecoding (b1 b2 : Byte) (code : BitVec 8)
    (hb : (b1, b2, code) ∈ [(0xFB#8, 0x00#8, 0x03#8), (0xFB#8, 0x9C#8, 0x04#8), (0xF3#8, 0x90#8, 0x02#8)]) :
    ∃ (s t : State) (c : List Byte), s.op = .idle ∧ s.phase = .demux ∧ exec (.chunk c) s = .next t ∧ t.phase = .faulted ∧
      t.faultCode = code := by
  have h : answers (fun t => t.phase = .faulted ∧ t.faultCode = code)
      (exec (.chunk (frame96 ++ [0xFF#8, b1, b2, 0x00#8])) demux) = true := by
    simp only [List.mem_cons, Prod.mk.injEq, List.not_mem_nil, or_false] at hb
    rcases hb with ⟨rfl, rfl, rfl⟩ | ⟨rfl, rfl, rfl⟩ | ⟨rfl, rfl, rfl⟩ <;> decide +kernel
  obtain ⟨t, ht, hp⟩ := answers_next h
  exact ⟨_, t, _, rfl, rfl, ht, by simpa using hp⟩

/-- The smallest and the largest recognised indices. -/
theorem witness_FrameHeaderRecorded :
    (scanning frame96).op = .scan { buf := frame96, off := 0, sizes := [] } ∧
      Config.bitrateKbps[(1#4).toNat]? = some (some 32) ∧ Config.bitrateKbps[(14#4).toNat]? = some (some 320) ∧
      Config.sampleRateHz[(0#2).toNat]? = some (some 44100) ∧ Config.sampleRateHz[(2#2).toNat]? = some (some 32000) := by
  decide +kernel

theorem witness_ReservedHeaderFaults :
    ∃ (s : State) (p : Scan), s.op = .scan p ∧ p.off < 2 ^ 32 :=
  ⟨scanning frame96, _, rfl, by decide⟩

/-- Nothing recorded; an incomplete frame with the SHORT end; a complete one. -/
theorem witness_ScanEndDecidesCompleteFrames :
    ∀ p ∈ [{ buf := [0#8], off := 0, sizes := [] }, { buf := frame96.take 95, off := 96, sizes := [96] },
        { buf := frame96, off := 96, sizes := [96] }],
      ({ demux with op := .scan p } : State).op = .scan p ∧ demux.params.leftoverRule = .tail ∧ demux.resets = [] ∧
        p.buf.length < p.off + 4 := by decide +kernel

theorem witness_FrameSizeTable : (0#4 = 0#4 ∧ 15#4 = 15#4) ∧ (1#4 ≠ 0#4 ∧ 14#4 ≠ 15#4 ∧ 3#2 = 3#2) := by decide

theorem witness_PaddingAddsOneByte : fsize 1#4 1#2 0#1 = .ok 96 := by rfl

/-- The bounds themselves (V-F05, V-F06). -/
theorem witness_FrameSizeRange : fsize 1#4 1#2 0#1 = .ok 96 ∧ fsize 14#4 2#2 1#1 = .ok 1441 := ⟨rfl, rfl⟩

theorem witness_HeaderRowsAgreeWithParser :
    ∃ (s : State) (p : Scan) (h : Word32), s.op = .scan p ∧ hdrAt p.buf p.off = some h :=
  ⟨scanning frame96, _, 0xFFFB1400#32, rfl, by decide +kernel⟩

/-- V-F01 and V-F10 with the protection bit of V-F09. -/
theorem witness_IgnoredHeaderBits :
    hdrAt [0xFF#8, 0xFB#8, 0x90#8, 0x00#8] 0 = some 0xFFFB9000#32 ∧ hdrAt [0xFF#8, 0xFA#8, 0x91#8, 0xFF#8] 0 = some 0xFFFA91FF#32 ∧
      (0xFFFB9000#32).extractLsb' 17 15 = (0xFFFA91FF#32).extractLsb' 17 15 ∧
      (0xFFFB9000#32).extractLsb' 9 7 = (0xFFFA91FF#32).extractLsb' 9 7 ∧
      hdrParse [0xFF#8, 0xFB#8, 0x90#8, 0x00#8] 0 = .frame 417 ∧ hdrParse [0x00#8, 0xFB#8, 0x90#8, 0x00#8] 0 = .nosync ∧
      hdrParse [0xFF#8, 0xFB#8, 0xF0#8, 0x00#8] 0 = .bad .unsupportedBitrate 0xFFFBF000#32 := by decide +kernel

/-- No tag, the shortest tag and the longest (V-T08, V-T01, V-T04). -/
theorem witness_TagLengthRange :
    id3Len [0xFF#8] = .ok 0 ∧
      id3Len [0x49#8, 0x44#8, 0x33#8, 0x03#8, 0x00#8, 0x00#8, 0x00#8, 0x00#8, 0x00#8, 0x00#8] = .ok 10 ∧
      id3Len [0x49#8, 0x44#8, 0x33#8, 0x03#8, 0x00#8, 0x00#8, 0x7F#8, 0x7F#8, 0x7F#8, 0x7F#8] = .ok 268435465 ∧
      (frame96.take 20).take 10 = frame96.take 10 := by
  decide +kernel

theorem witness_TagRowsAgreeWithId3Len :
    (checking [0xFF#8]).op = .tagCheck [0xFF#8] ∧ decodeTag [0xFF#8] = .ok (.tagAbsent [0xFF#8]) ∧
      decodeTag [0x49#8, 0x44#8, 0x33#8] = .ok (.tagPresent (.short [])) := by decide +kernel

/-- A chunk as long as the tag, one byte longer in an unbounded buffer, and one byte longer in a buffer of no bytes. -/
theorem witness_TagPresentMeasures :
    (checking (List.replicate 10 0#8)).op = .tagCheck (List.replicate 10 0#8) ∧
      (List.replicate 10 0#8 : List Byte).length ≤ ((0#8).toNat % 128 * 2 ^ 21 + 0 + 0 + 0) + 10 ∧
      10 < (List.replicate 11 0#8 : List Byte).length ∧
      overCapacity base.params.wbufCap (base.leftover.length + (11 - 10)) = false ∧
      overCapacity (some 0) (base.leftover.length + (11 - 10)) = true := by decide +kernel

theorem witness_ShortTagHeaderFaults : (checking [0x49#8]).op = .tagCheck [0x49#8] := by decide

theorem witness_TagAbsentMeasuresZero :
    (checking [0xFF#8]).op = .tagCheck [0xFF#8] ∧ ([0xFF#8] : List Byte) ≠ [] ∧ [0xFF#8] ≠ [0x49#8] ∧
      [0xFF#8] ≠ [0x49#8, 0x44#8] ∧ overCapacity base.params.wbufCap (base.leftover.length + 1) = false ∧
      overCapacity (some 0) (base.leftover.length + 1) = true := by decide +kernel

theorem witness_ChunkInDemuxIsProcess : demux.op = .idle ∧ demux.phase = .demux ∧ ([0xFF#8] : List Byte) ≠ [] := by decide

/-- V-T06 and V-T08. -/
theorem witness_ChunkInTagHeadIsTagSkip :
    base.op = .idle ∧ base.phase = .tagHead ∧ id3Len [0x49#8, 0x44#8] = .error .shortTagHeader ∧ id3Len [0xFF#8] = .ok 0 := by
  decide +kernel

theorem witness_ChunkInTagSkipIsTagSkip :
    ({ base with phase := .tagSkip } : State).op = .idle ∧ ({ base with phase := .tagSkip } : State).phase = .tagSkip ∧
      ([0xFF#8] : List Byte) ≠ [] := by decide

theorem demux_engine : engineSpecified demux := by
  intro a ha
  simp only [demux, List.mem_cons, List.not_mem_nil, or_false] at ha
  rcases ha with rfl | rfl <;> simp

theorem witness_ChunkRunsToItsEnd : demux.op = .idle ∧ engineSpecified demux := ⟨rfl, demux_engine⟩

theorem frame96_whole : WholeFrame frame96 := by
  unfold WholeFrame
  decide +kernel

/-- Two frames, a cursor that fills the interleave destination exactly. -/
theorem witness_WholeFramesChunkCompletes :
    ∃ (s : State) (frames : List (List Byte)) (ks : List Nat) (rest : List DecAnswer),
      s.op = .idle ∧ s.phase = .demux ∧ s.leftover = [] ∧ frames ≠ [] ∧ (∀ f ∈ frames, WholeFrame f) ∧
      overCapacity s.params.wbufCap frames.flatten.length = false ∧ ks.length = frames.length ∧
      s.decAnswers = ks.map DecAnswer.ok ++ rest ∧ 4 * ks.sum ≤ s.pcmBufferSize.toNat :=
  ⟨{ demux with pcmBufferSize := 9216#32 }, [frame96, frame96], [1152, 1152], [], rfl, rfl, rfl, by simp,
    by simp [frame96_whole], rfl, rfl, rfl, by decide⟩

theorem chunk_demux_completes : ∃ t, exec (.chunk (frame96 ++ frame96.take 50)) demux = .next t ∧ t.phase = .demux := by
  have h : answers (fun t => t.phase = .demux) (exec (.chunk (frame96 ++ frame96.take 50)) demux) = true := by decide +kernel
  obtain ⟨t, ht, hp⟩ := answers_next h
  exact ⟨t, ht, by simpa using hp⟩

theorem witness_WorkingBufferPartition :
    ∃ (s t : State) (c : List Byte), s.op = .idle ∧ s.phase = .demux ∧ c ≠ [] ∧ s.params.leftoverRule = .tail ∧
      exec (.chunk c) s = .next t ∧ t.phase = .demux := by
  obtain ⟨t, ht, hp⟩ := chunk_demux_completes
  exact ⟨demux, t, _, rfl, rfl, by simp [frame96], rfl, ht, hp⟩

theorem witness_OneSegmentPerProcess :
    ∃ (s t : State) (c : List Byte), s.op = .idle ∧ s.phase = .demux ∧ c ≠ [] ∧ exec (.chunk c) s = .next t ∧ t.phase = .demux := by
  obtain ⟨t, ht, hp⟩ := chunk_demux_completes
  exact ⟨demux, t, _, rfl, rfl, by simp [frame96], ht, hp⟩

/-- One byte short of a frame, and a frame's header alone (V-M02 with a smaller frame). -/
theorem witness_OnlyLastFrameIncomplete :
    (∀ n ∈ [4, 95], scanLoop (frame96.take n) ((frame96.take n).length + 1) 0 [] = .ok [96] ∧ (frame96.take n).length < [96].sum) := by
  decide +kernel

theorem witness_NoResynchronisation :
    ∃ (s : State) (b : Byte) (left c : List Byte), s.op = .idle ∧ s.phase = .demux ∧ c ≠ [] ∧ s.leftover = b :: left ∧ b ≠ 0xFF#8 ∧
      overCapacity s.params.wbufCap (s.leftover.length + c.length) = false :=
  ⟨{ demux with leftover := [0x00#8] }, 0x00#8, [], frame96, rfl, rfl, by simp [frame96], rfl, by decide, rfl⟩

theorem witness_ChunkingIndependence :
    ∃ (s t : State) (frames chunks : List (List Byte)) (future : List Byte),
      s.op = .idle ∧ s.phase = .demux ∧ s.leftover = [] ∧ s.params.wbufCap = none ∧ s.params.leftoverRule = .tail ∧
      (∀ f ∈ frames, WholeFrame f) ∧ (∀ c ∈ chunks, c ≠ []) ∧ chunks.flatten ++ future = frames.flatten ∧
      runChunks chunks s = .next t ∧ t.phase = .demux ∧ future = [] := by
  have h : answers (fun t => t.phase = .demux)
      (runChunks [(frame96 ++ frame96).take 3, ((frame96 ++ frame96).drop 3).take 100, (frame96 ++ frame96).drop 103] demux) = true := by
    decide +kernel
  obtain ⟨t, ht, hp⟩ := answers_next h
  exact ⟨demux, t, [frame96, frame96], _, [], rfl, rfl, rfl, rfl, rfl, by simp [frame96_whole], by decide +kernel,
    by decide +kernel, ht, by simpa using hp, rfl⟩

/-- One byte more than WBUF_CAP. -/
theorem witness_BufferOverflowFaults :
    ∃ (s : State) (c : List Byte) (k : Nat), s.op = .idle ∧ s.phase = .demux ∧ c ≠ [] ∧ s.params.wbufCap = some k ∧
      k < s.leftover.length + c.length :=
  ⟨{ demux with params := { demux.params with wbufCap := some 1 }, leftover := [0xFF#8] }, [0xFB#8], 1, rfl, rfl, by simp, rfl,
    by decide⟩

theorem witness_ShortfallRule : [417].sum ≤ (frame417).length ∧ (frame417).length < [417, 417].sum := by decide +kernel

/-- A cursor that stays below 2^32 by one. -/
theorem witness_DecCallAccumulates :
    ∃ (s : State) (d : Dispatching) (k : Nat) (rest : List DecAnswer), s.op = .dispatch d ∧ d.next < d.nc ∧ s.resets = [] ∧
      s.decAnswers = .ok k :: rest ∧ s.sampleCursor.toNat + k < 2 ^ 32 :=
  ⟨atSecondCall 0xFFFFFFFE#32 (.ok 1), _, 1, [], rfl, by decide, rfl, rfl, by decide⟩

/-- CAPACITY, and a cursor that reaches 2^32. -/
theorem witness_DecCapacityFaults (a : DecAnswer) (_ha : a = .capacity ∨ a = .ok 1) :
    ∃ (s : State) (d : Dispatching) (rest : List DecAnswer), s.op = .dispatch d ∧ d.next < d.nc ∧ s.resets = [] ∧
      s.decAnswers = a :: rest ∧ d.starts.getD d.next 0 < 2 ^ 32 ∧ 2 ^ 32 - 1 < s.sampleCursor.toNat + 1 :=
  ⟨atSecondCall 0xFFFFFFFF#32 a, _, [], rfl, by decide, rfl, rfl, by decide,
    (by decide : 2 ^ 32 - 1 < (0xFFFFFFFF#32).toNat + 1)⟩

/-- After the last call, with a destination one byte too small and with one just large enough (V-Q02, V-Q01). -/
theorem witness_InterleaveSegmentCommit (size : Word32) (_h : size = 9215#32 ∨ size = 9216#32) :
    ∃ (s : State) (d : Dispatching), s.op = .dispatch d ∧ d.nc ≤ d.next ∧ s.resets = [] ∧ s.sampleCursor.toNat = 2304 ∧
      s.pcmBufferSize = size :=
  ⟨{ demux with pcmBufferSize := size, sampleCursor := 2304#32, op := .dispatch { dispatching with next := 2 } }, _, rfl, by decide,
    rfl, rfl, rfl⟩

theorem witness_UnspecifiedEngineOutcomeRefused (a : DecAnswer) (_h : a = .otherOutcome ∨ a = .wroteBuffer) :
    ∃ (s : State) (d : Dispatching) (rest : List DecAnswer), s.op = .dispatch d ∧ d.next < d.nc ∧ s.resets = [] ∧
      s.decAnswers = a :: rest :=
  ⟨atSecondCall 0#32 a, _, [], rfl, by decide, rfl, rfl⟩

/-- Between transactions no scan and no check is there; in a scan no transaction is taken. -/
theorem witness_InstructionsOutOfPlaceStop :
    (∀ p, demux.op ≠ .scan p) ∧ (∀ c, demux.op ≠ .tagCheck c) ∧ (scanning frame96).op ≠ .idle :=
  ⟨fun p => by simp [demux, base, State.reset], fun c => by simp [demux, base, State.reset], by decide⟩

/-- A header, a first chunk, a transaction, and a register access with the input port empty and in FAULTED. -/
theorem witness_StepRunsDecodedInstruction :
    ((scanning frame96).resets = [] ∧ hdrAt frame96 0 = some 0xFFFB1400#32) ∧
      ((checking [0xFF#8]).resets = [] ∧ decodeTag [0xFF#8] = .ok (.tagAbsent [0xFF#8])) ∧
      (demux.op = .idle ∧ demux.phase ≠ .faulted ∧ decodeTxn [0x02#8] = .ok (.eos, [])) ∧
      decodeTxn demux.rx = .error .incomplete ∧ decodeAccess (.read 32 0x04) = .ok (.rd32 0x04) ∧
      decodeAccess .reset = .ok .reset := by decide +kernel

/-- One word of each format that decodes. -/
theorem witness_PlacedWordIsRun :
    decodeTableWord 32 0xFFFB9000 = some (.hdrFrameL3 1#1 9#4 0#2 0#1 0#1 0#8) ∧
      decodeTableWord 24 0x494433 = some (.tagPresent (.full 0#8 0#8 0#8 0#8 0#8 0#8 0#8)) ∧
      decodeTableWord 8 0x01 = some (.chunk []) ∧ decodeTableWord 8 0x02 = some .eos := by decide +kernel

/-- In the middle of a scan, where the invariant says the most, and at a commit, which leaves a LEFTOVER of 3 bytes. -/
theorem witness_StepKeepsInvariant :
    (CoreInv (scanning frame96) ∧ answers (fun _ => true) (step (scanning frame96)) = true) ∧
      CoreInv { demux with op := .commit [0xFF#8, 0xFB#8, 0x90#8] } ∧
      answers (fun t => t.leftover.length < 2 ^ 32 ∧ t.leftoverLen = 3#32)
        (step { demux with op := .commit [0xFF#8, 0xFB#8, 0x90#8] }) = true :=
  ⟨⟨demux_inv _ rfl ⟨rfl, rfl, rfl⟩, by decide +kernel⟩, demux_inv _ rfl ⟨rfl, rfl⟩, by decide +kernel⟩

theorem witness_ChunkFrame : ∃ (s t : State) (c : List Byte), exec (.chunk c) s = .next t := by
  obtain ⟨t, ht, -⟩ := chunk_demux_completes
  exact ⟨demux, t, _, ht⟩

theorem witness_EncodeDecodeRoundTrip :
    (Instr.hdrFrameL3 1#1 1#4 0#2 0#1 0#1 0#8).wellFormed = true ∧ (Instr.hdrFrameL3 0#1 14#4 2#2 1#1 1#1 0xFF#8).wellFormed = true ∧
      (Instr.wr32 0x3C 0xFFFFFFFF#32).wellFormed = true ∧ (Instr.chunk [0xFF#8]).wellFormed = true ∧
      (Instr.tagAbsent [0x49#8, 0x44#8]).wellFormed = true ∧ (Instr.tagPresent (.short [])).wellFormed = true := by decide

end Sys2Proof.Tests
end

/-! SUPPORT. The register window: which accesses have a meaning, and what a write does at each offset (R34, R35, R211, R212). -/

namespace Sys2Proof.Machine

theorem windowOffset_iff {a : Nat} : windowOffset a = true ↔ a % 4 = 0 ∧ a ≤ 0x3C := by
  simp [windowOffset]

theorem betweenTransactions_idle {s : State} (hop : s.op = .idle) (answer : Answer) : betweenTransactions s answer = answer :=
  if_pos hop

/-- A write at an offset of the window is the register write of R212. -/
theorem exec_wr32_window {s : State} {a : Nat} (v : Word32) (hop : s.op = .idle) (ha : windowOffset a = true) :
    exec (.wr32 a v) s = .next (writeRegister a v s) :=
  (betweenTransactions_idle hop _).trans (if_pos ha)

theorem exec_wr32_outside {s : State} {a : Nat} (v : Word32) (hop : s.op = .idle) (ha : ¬ windowOffset a = true) :
    exec (.wr32 a v) s = .refused (.registerAccess a) :=
  (betweenTransactions_idle hop _).trans (if_neg ha)

theorem exec_rd32_outside {s : State} {a : Nat} (hop : s.op = .idle) (ha : ¬ windowOffset a = true) :
    exec (.rd32 a) s = .refused (.registerAccess a) :=
  (betweenTransactions_idle hop _).trans (if_neg ha)

/-- A write of CTRL with bit 0 set is a reset (R34). -/
theorem writeRegister_ctrl_set {v : Word32} (hv : v[0] = true) (s : State) : writeRegister 0x00 v s = resetCore s :=
  if_pos ⟨rfl, hv⟩

/-- A write has no effect but at CTRL with bit 0 set and at PCM_BUFFER_SIZE in TAG_HEAD (R212). -/
theorem writeRegister_ignored {a : Nat} {v : Word32} {s : State} (hctrl : ¬ (a = 0x00 ∧ v[0] = true))
    (hpcm : ¬ (a = 0x20 ∧ s.phase = .tagHead)) : writeRegister a v s = s := by
  rw [writeRegister, if_neg hctrl, if_neg hpcm]

/-- What a register write did: a reset, a write of PCM_BUFFER_SIZE in TAG_HEAD, or nothing (R212). -/
theorem writeRegister_cases (a : Nat) (v : Word32) (s : State) :
    (a = 0x00 ∧ v[0] = true ∧ writeRegister a v s = resetCore s) ∨
    (a = 0x20 ∧ s.phase = .tagHead ∧ writeRegister a v s = { s with pcmBufferSize := v }) ∨
    writeRegister a v s = s := by
  unfold writeRegister
  split
  · rename_i h
    exact .inl ⟨h.1, h.2, rfl⟩
  · split
    · rename_i h
      exact .inr (.inl ⟨h.1, h.2, rfl⟩)
    · exact .inr (.inr rfl)

/-- CTRL and the reserved offsets read 0 (R34, R35). -/
theorem readRegister_ctrl (s : State) : readRegister 0x00 s = 0#32 := rfl

theorem readRegister_reserved {a : Nat} (ha : 0x2C ≤ a) (s : State) : readRegister a s = 0#32 := by
  have h : ∀ n, n < 0x2C → a ≠ n := fun n hn => by omega
  simp [readRegister, h]

/-- With nothing on the input port the host's next line is what is next between transactions (R58). -/
theorem select_eq_selectHost {s : State} (hop : s.op = .idle) (hrx : s.rx = []) : select s = selectHost s := by
  simp [select, hop, selectIdle, hrx, decodeTxn]

/-- A host line that is an access of another width than 32 bits is refused (R35). -/
theorem selectHost_refuses {s : State} {op : HostOp} {rest : List HostOp} {bits : Nat} (hline : s.host = op :: rest)
    (hdecode : decodeAccess op = .error (.accessWidth bits)) : selectHost s = .refuse (.accessWidth bits) := by
  cases op with
  | send bytes => cases hdecode
  | read width a => simp only [selectHost, hline, hdecode, accessRefusal]
  | write width a v => simp only [selectHost, hline, hdecode, accessRefusal]
  | reset => cases hdecode

/-- A refused host line is a refused step. -/
theorem step_of_select_refuse {s : State} {r : Refusal} (hresets : s.resets = []) (h : select s = .refuse r) :
    step s = .refused r := by
  simp only [step, sequenceStep, hresets, quietStep, perform, h]

/-- Settles O2: CTRL is in the window, and its write is a reset or ignored by bit 0. -/
theorem softResetEqualsResetInput : Obligations.SoftResetEqualsResetInput := by
  intro s v hop
  have hwrite := exec_wr32_window (a := 0x00) v hop rfl
  refine ⟨readRegister_ctrl s, fun hv => ?_, fun hv => ?_⟩
  · rw [hwrite, writeRegister_ctrl_set hv]
    rfl
  · rw [hwrite, writeRegister_ignored (by simp [hv]) (by simp)]

/-- Settles O7: the offsets but CTRL and PCM_BUFFER_SIZE are inside the window and not written, the others are outside it, and a
line of another width is refused before it is an instruction. -/
theorem accessesWithoutMeaningRefused : Obligations.AccessesWithoutMeaningRefused := by
  intro s a bits v rest hop
  have hignored : a % 4 = 0 → 0x04 ≤ a → a ≤ 0x3C → a ≠ 0x20 → exec (.wr32 a v) s = .next s := fun h4 hlow hhigh hpcm => by
    rw [exec_wr32_window v hop (windowOffset_iff.2 ⟨h4, hhigh⟩), writeRegister_ignored (by omega) (by tauto)]
  have hnarrow : ∀ op, s.resets = [] → s.rx = [] → s.host = op :: rest → decodeAccess op = .error (.accessWidth bits) →
      step s = .refused (.accessWidth bits) := fun op hresets hrx hline hdecode =>
    step_of_select_refuse hresets ((select_eq_selectHost hop hrx).trans (selectHost_refuses hline hdecode))
  refine ⟨fun h4 hlow hhigh => ?_, fun h4 hlow hhigh hpcm => ?_, fun hout => ?_, fun hbits hresets hrx => ?_⟩
  · exact ⟨readRegister_reserved hlow s, hignored h4 (by omega) hhigh (by omega)⟩
  · exact hignored h4 hlow (by omega) hpcm
  · have hwindow : ¬ windowOffset a = true := by
      rw [windowOffset_iff]
      omega
    exact ⟨exec_rd32_outside hop hwindow, exec_wr32_outside v hop hwindow⟩
  · exact ⟨fun hline => hnarrow _ hresets hrx hline (if_neg hbits), fun hline => hnarrow _ hresets hrx hline (if_neg hbits)⟩

end Sys2Proof.Machine

/-! SUPPORT. The header and tag rows are the small step they stand for: executing the row that the decoder reads is HDRPARSE and the
ID3v2 check on the same bytes (R83, R101, R140). -/

namespace Sys2Proof.Machine

/-! ## FSIZE at the reserved indices -/

theorem fsize_reservedBitrate {bi : BitVec 4} (h : bi = 0#4 ∨ bi = 15#4) (si : BitVec 2) (p : BitVec 1) :
    fsize bi si p = .error .unsupportedBitrate := by
  rcases h with rfl | rfl <;> rfl

theorem fsize_reservedSampleRate {bi : BitVec 4} (h0 : bi ≠ 0#4) (h15 : bi ≠ 15#4) (p : BitVec 1) :
    fsize bi 3#2 p = .error .unsupportedSampleRate := by
  have hrate : ∀ bi : BitVec 4, bi ≠ 0#4 → bi ≠ 15#4 → (bitrateKbps bi).isSome = true := by decide
  obtain ⟨kbps, hk⟩ := Option.isSome_iff_exists.1 (hrate bi h0 h15)
  have hhz : sampleRateHz 3#2 = none := rfl
  simp only [fsize, hk, hhz]

/-- FSIZE faults with an unsupported index (R122). -/
theorem fsize_error {bi : BitVec 4} {si : BitVec 2} {p : BitVec 1} {code : FaultCode} (h : fsize bi si p = .error code) :
    code = .unsupportedBitrate ∨ code = .unsupportedSampleRate := by
  unfold fsize at h
  split at h
  · exact .inl (by simpa using h.symm)
  · split at h
    · exact .inr (by simpa using h.symm)
    · cases h

/-! ## HDRPARSE -/

/-- The index and padding fields of a header word, in byte 2 (R71). -/
theorem be32_indices (b0 b1 b2 b3 : Byte) :
    hdrBitrateIndex (be32 b0 b1 b2 b3) = b2.extractLsb' 4 4 ∧ hdrSampleRateIndex (be32 b0 b1 b2 b3) = b2.extractLsb' 2 2 ∧
      hdrPadding (be32 b0 b1 b2 b3) = b2.extractLsb' 1 1 := by
  rw [be32_eq_fieldsWord]
  obtain ⟨-, -, hbi, hsi, hpad, -, -⟩ := fieldsWord_fields (b0 ++ b1.extractLsb' 1 7) (b1.extractLsb' 0 1) (b2.extractLsb' 4 4)
    (b2.extractLsb' 2 2) (b2.extractLsb' 1 1) (b2.extractLsb' 0 1) b3
  exact ⟨hbi, hsi, hpad⟩

/-- The word of a layer-III row is the header word its fields came from. -/
theorem layer3Word_eq_be32 {b0 b1 : Byte} (h : IsLayer3 b0 b1) (b2 b3 : Byte) :
    layer3Word (b1.extractLsb' 0 1) (b2.extractLsb' 4 4) (b2.extractLsb' 2 2) (b2.extractLsb' 1 1) (b2.extractLsb' 0 1) b3 =
      be32 b0 b1 b2 b3 := by
  rw [be32_eq_fieldsWord, (layer3_top b0 b1).2 h]
  rfl

section
variable {buf : List Byte} {off : Nat} {b0 b1 b2 b3 : Byte} (hbytes : memRead buf off 4 = some [b0, b1, b2, b3])
include hbytes

theorem hdrParse_nosync (h : b0 ≠ Config.syncByte) : hdrParse buf off = .nosync := by
  simp only [hdrParse, hbytes, if_pos h]

theorem hdrParse_badVersionLayer (h0 : b0 = Config.syncByte) (h1 : b1 &&& Config.vlMask ≠ Config.vlMatch) :
    hdrParse buf off = .bad .unsupportedVersionLayer (be32 b0 b1 b2 b3) := by
  simp only [hdrParse, hbytes, if_neg (not_not.2 h0), if_pos h1]

theorem hdrParse_layer3_error {code : FaultCode} (h : IsLayer3 b0 b1)
    (hsize : fsize (b2.extractLsb' 4 4) (b2.extractLsb' 2 2) (b2.extractLsb' 1 1) = .error code) :
    hdrParse buf off = .bad code (be32 b0 b1 b2 b3) := by
  obtain ⟨hbi, hsi, hpad⟩ := be32_indices b0 b1 b2 b3
  simp only [hdrParse, hbytes, if_neg (not_not.2 h.1), if_neg (not_not.2 h.2), hbi, hsi, hpad, hsize]

theorem hdrParse_layer3_ok {size : Nat} (h : IsLayer3 b0 b1)
    (hsize : fsize (b2.extractLsb' 4 4) (b2.extractLsb' 2 2) (b2.extractLsb' 1 1) = .ok size) :
    hdrParse buf off = .frame size := by
  obtain ⟨hbi, hsi, hpad⟩ := be32_indices b0 b1 b2 b3
  simp only [hdrParse, hbytes, if_neg (not_not.2 h.1), if_neg (not_not.2 h.2), hbi, hsi, hpad, hsize]

end

/-- HDRPARSE raises the faults of the header rows only (R140). -/
theorem hdrParse_bad {buf : List Byte} {off : Nat} {code : FaultCode} {h : Word32} (hp : hdrParse buf off = .bad code h) :
    code = .unsupportedVersionLayer ∨ code = .unsupportedBitrate ∨ code = .unsupportedSampleRate := by
  unfold hdrParse at hp
  split at hp
  · split at hp
    · cases hp
    · split at hp
      · cases hp
        exact .inl rfl
      · split at hp
        · cases hp
          exact .inr (fsize_error ‹_›)
        · cases hp
  · cases hp

/-! ## The header rows -/

theorem onScan_scan {s : State} {p : Scan} (hop : s.op = .scan p) (effect : Scan → State) :
    onScan s effect = .next (finishFault (effect p)) := by
  simp only [onScan, hop]

/-- Executing the header row at the scan offset is what HDRPARSE there does to the scan, a fault entry run to its end (R83). -/
theorem exec_decodeHdr {s : State} {p : Scan} {h : Word32} (hop : s.op = .scan p) (hh : hdrAt p.buf p.off = some h) :
    exec (decodeHdr h) s = .next (finishFault (applyHdr (hdrParse p.buf p.off) p s)) := by
  obtain ⟨b0, b1, b2, b3, hbytes, rfl⟩ := hdrAt_eq_some.1 hh
  rcases decodeHdr_be32 b0 b1 b2 b3 with ⟨hl, hbi, e⟩ | ⟨hl, hbi, e⟩ | ⟨hl, h0, h15, hsi, e⟩ | ⟨hl, -, -, -, e⟩ | ⟨h0, h1, e⟩ |
    ⟨h0, e⟩ <;> rw [e] <;> refine (onScan_scan hop _).trans ?_
  · rw [hdrParse_layer3_error hbytes hl (fsize_reservedBitrate (.inl hbi) _ _), ← hbi, layer3Word_eq_be32 hl]
    rfl
  · rw [hdrParse_layer3_error hbytes hl (fsize_reservedBitrate (.inr hbi) _ _), ← hbi, layer3Word_eq_be32 hl]
    rfl
  · rw [hdrParse_layer3_error hbytes hl (hsi ▸ fsize_reservedSampleRate h0 h15 _), ← hsi, layer3Word_eq_be32 hl]
    rfl
  · cases hsize : fsize (b2.extractLsb' 4 4) (b2.extractLsb' 2 2) (b2.extractLsb' 1 1) with
    | error code =>
      rw [hdrParse_layer3_error hbytes hl hsize, layer3Word_eq_be32 hl]
      rfl
    | ok size =>
      rw [hdrParse_layer3_ok hbytes hl hsize]
      rfl
  · rw [hdrParse_badVersionLayer hbytes h0 h1, h0]
    rfl
  · rw [hdrParse_nosync hbytes h0]
    rfl

/-! ## The tag rows -/

theorem onTagCheck_tagCheck {s : State} {c : List Byte} (hop : s.op = .tagCheck c) (effect : List Byte → State) :
    onTagCheck s effect = .next (finishFault (effect c)) := by
  simp only [onTagCheck, hop]

theorem decodeTagTail_short {bytes : List Byte} (h : bytes.length < 7) : decodeTagTail bytes = .short bytes := by
  unfold decodeTagTail
  split
  · simp at h
    omega
  · rfl

/-- Behind the magic the size bytes stand at offsets 6 to 9 of the chunk (R78). -/
theorem decodeTagTail_full {c : List Byte} (h : Config.id3HdrLen ≤ c.length) :
    ∃ major revision flags, decodeTagTail (c.drop 3) =
      .full major revision flags (c.getD 6 0#8) (c.getD 7 0#8) (c.getD 8 0#8) (c.getD 9 0#8) := by
  match c, h with
  | _ :: _ :: _ :: major :: revision :: flags :: _ :: _ :: _ :: _ :: _, _ => exact ⟨major, revision, flags, rfl⟩

/-- A chunk that does not begin with the magic is a beginning of it exactly when its first three bytes are (R101). -/
theorem take_three_beginsMagic {c : List Byte} :
    ((c.take 3).length < 3 ∧ c.take 3 = Config.id3Magic.take (c.take 3).length) ↔
      c.length < 3 ∧ c = Config.id3Magic.take c.length := by
  by_cases hlen : c.length < 3
  · rw [List.take_of_length_le (by omega)]
  · have : ¬ (c.take 3).length < 3 := by
      rw [List.length_take]
      omega
    tauto

/-- ID3LEN of a chunk that begins with the magic (R101). -/
theorem id3Len_of_magic {c : List Byte} (h : c.take 3 = Config.id3Magic) :
    id3Len c = if c.length < Config.id3HdrLen then .error .shortTagHeader else .ok ((tagBodySize c).toNat + Config.id3HdrLen) := by
  have hlen : (c.take 3).length = 3 := congrArg List.length h
  rw [List.length_take] at hlen
  exact if_pos ⟨by omega, h⟩

/-- ID3LEN of any other chunk (R101). -/
theorem id3Len_of_not_magic {c : List Byte} (h : c.take 3 ≠ Config.id3Magic) :
    id3Len c = if c.length < 3 ∧ c = Config.id3Magic.take c.length then .error .shortTagHeader else .ok 0 :=
  if_neg fun hm => h hm.2

/-- Executing the tag row of the first chunk is the ID3v2 check on it and the rest of TAGSKIP, a fault entry run to its end
(R101, R103). -/
theorem exec_decodeTag {s : State} {c : List Byte} {i : Instr} (hop : s.op = .tagCheck c) (hi : decodeTag c = .ok i) :
    exec i s = .next (finishFault (applyTag (id3Len c) c s)) := by
  unfold decodeTag at hi
  split at hi
  · cases hi
  split at hi <;> rename_i hmagic <;> cases hi <;> refine (onTagCheck_tagCheck hop _).trans ?_
  · rw [id3Len_of_magic hmagic]
    by_cases hshort : c.length < Config.id3HdrLen
    · have hrest : (c.drop 3).length < 7 := by
        simp only [List.length_drop, Config.id3HdrLen] at hshort ⊢
        omega
      rw [if_pos hshort, decodeTagTail_short hrest]
      rfl
    · obtain ⟨major, revision, flags, e⟩ := decodeTagTail_full (not_lt.1 hshort)
      rw [if_neg hshort, e]
      rfl
  · rw [id3Len_of_not_magic hmagic]
    simp only [take_three_beginsMagic]
    split <;> rfl

end Sys2Proof.Machine

/-! SUPPORT. What a step does, said once for every state: a reset, a host's write, a change of the outside world only, a small step of
the operation in progress, or the small steps of a transaction that was taken (R58, R250). -/

namespace Sys2Proof.Machine

open Sys2Proof.Spec

/-! ## What is selected -/

/-- A host line that is an instruction, and which one (R86). -/
theorem decodeAccess_ok {op : HostOp} {i : Instr} (h : decodeAccess op = .ok i) :
    (∃ a, op = .read 32 a ∧ i = .rd32 a) ∨ (∃ a v, op = .write 32 a v ∧ i = .wr32 a v) ∨ (op = .reset ∧ i = .reset) := by
  cases op with
  | send bytes => cases h
  | read bits a =>
    simp only [decodeAccess] at h
    split at h <;> cases h
    exact .inl ⟨a, by simp [*], rfl⟩
  | write bits a v =>
    simp only [decodeAccess] at h
    split at h <;> cases h
    exact .inr (.inl ⟨a, v, by simp [*], rfl⟩)
  | reset =>
    cases h
    exact .inr (.inr ⟨rfl, rfl⟩)

/-- The host's instruction is its next line. -/
theorem selectHost_run {s s' : State} {i : Instr} (h : selectHost s = .run i s') :
    ∃ op rest, s.host = op :: rest ∧ decodeAccess op = .ok i ∧ s' = { s with host := rest } := by
  unfold selectHost at h
  split at h
  · cases h
  · cases h
  · split at h
    · cases h
      exact ⟨_, _, ‹_›, ‹_›, rfl⟩
    · cases h

/-- Between transactions an instruction is the transaction at the head of the input port or the host's next line (R58, R208). -/
theorem selectIdle_run {s s' : State} {i : Instr} (h : selectIdle s = .run i s') :
    (s.phase ≠ .faulted ∧ ∃ rest, decodeTxn s.rx = .ok (i, rest) ∧ s' = { s with rx := rest }) ∨
    (∃ op rest, s.host = op :: rest ∧ decodeAccess op = .ok i ∧ s' = { s with host := rest }) := by
  unfold selectIdle at h
  split at h
  · exact .inr (selectHost_run h)
  · split at h
    · cases h
      exact .inl ⟨‹_›, _, ‹_›, rfl⟩
    · exact .inr (selectHost_run h)

/-- Where an instruction that is next comes from: the transaction at the head of the input port, the host's next line, the first
chunk under its ID3v2 check, or the header at the scan offset (R58, R60). -/
theorem select_run {s s' : State} {i : Instr} (h : select s = .run i s') :
    (s.op = .idle ∧ s.phase ≠ .faulted ∧ ∃ rest, decodeTxn s.rx = .ok (i, rest) ∧ s' = { s with rx := rest }) ∨
    (s.op = .idle ∧ ∃ op rest, s.host = op :: rest ∧ decodeAccess op = .ok i ∧ s' = { s with host := rest }) ∨
    (s' = s ∧ ∃ c, s.op = .tagCheck c ∧ decodeTag c = .ok i) ∨
    (s' = s ∧ ∃ p h, s.op = .scan p ∧ hdrAt p.buf p.off = some h ∧ i = decodeHdr h) := by
  unfold select at h
  split at h <;> rename_i hop
  · rcases selectIdle_run h with ⟨hphase, hrest⟩ | hline
    · exact .inl ⟨hop, hphase, hrest⟩
    · exact .inr (.inl ⟨hop, hline⟩)
  · cases h
  · cases h
  · cases h
  · split at h <;> cases h
    exact .inr (.inr (.inl ⟨rfl, _, hop, ‹_›⟩))
  · split at h <;> cases h
    exact .inr (.inr (.inr ⟨rfl, _, _, hop, ‹_›, rfl⟩))
  · cases h
  · cases h
  · cases h

/-! ## The effect of a step -/

theorem resetCore_afterReset (s : State) : AfterReset s (resetCore s) := by
  simp [AfterReset, FaultClear]

/-- What a step from `s` can lead to. -/
inductive StepEffect (s : State) : State → Prop
  /-- A reset comes (R250, R34). -/
  | reset {t : State} (hcomes : ResetComes s) (hafter : AfterReset s t) : StepEffect s t
  /-- The host writes PCM_BUFFER_SIZE in TAG_HEAD (R212). -/
  | pcmWrite (v : Word32) (rest : List HostOp) (resets : List Nat) (hop : s.op = .idle) (hphase : s.phase = .tagHead)
      (hline : s.host = .write 32 0x20 v :: rest) :
      StepEffect s { s with host := rest, pcmBufferSize := v, resets := resets }
  /-- Nothing of CORE changes: bytes arrive, a register is read, a write is ignored, or CORE waits. -/
  | outside (rx : List Byte) (host : List HostOp) (resets : List Nat) (log : List PortEvent) :
      StepEffect s { s with rx := rx, host := host, resets := resets, log := log }
  /-- A small step of the operation in progress. -/
  | small (u : State) (resets : List Nat) (hadvance : advance s = .next u) : StepEffect s { u with resets := resets }
  /-- A header or tag row: a small step, and the end of the fault entry it begins. -/
  | row (u : State) (resets : List Nat) (hadvance : advance s = .next u) : StepEffect s { finishFault u with resets := resets }
  /-- The transaction at the head of the input port is taken, and small steps of it are made. -/
  | transaction (i : Instr) (txn : Txn) (rest : List Byte) (n : Nat) (u : State) (resets : List Nat) (hop : s.op = .idle)
      (hphase : s.phase ≠ .faulted) (hdecode : decodeTxn s.rx = .ok (i, rest)) (htxn : transactionOf i = some txn)
      (hdrive : drive n { s with rx := rest, op := .received txn } = .next u) : StepEffect s { u with resets := resets }

/-- A way to run the selected instruction: a transaction is begun and small steps of it are made, any other row is executed. -/
structure RunsInstructions (run : Instr → State → Answer) : Prop where
  transaction : ∀ (i : Instr) (txn : Txn) (s t : State), transactionOf i = some txn → s.op = .idle → s.phase ≠ .faulted →
    run i s = .next t → ∃ n, drive n { s with op := .received txn } = .next t
  other : ∀ (i : Instr) (s : State), transactionOf i = none → run i s = exec i s

theorem exec_runsInstructions : RunsInstructions exec where
  transaction i txn s t htxn hop hphase h := by
    have hrun : exec i s = betweenTransactions s (runTransaction txn s) := by
      rcases transactionOf_eq_some htxn with ⟨data, rfl, rfl⟩ | ⟨rfl, rfl⟩ | ⟨tag, rfl, rfl⟩ <;> rfl
    rw [hrun, betweenTransactions_idle hop, runTransaction, if_neg hphase] at h
    exact ⟨_, h⟩
  other _ _ _ := rfl

theorem beginInstr_runsInstructions : RunsInstructions beginInstr where
  transaction i txn s t htxn hop hphase h := by
    simp only [beginInstr, htxn] at h
    exact ⟨0, h⟩
  other i s hnone := by
    simp only [beginInstr, hnone]

theorem transactionOf_decodeHdr (h : Word32) : transactionOf (decodeHdr h) = none := by
  unfold decodeHdr
  split_ifs <;> rfl

theorem transactionOf_decodeTag {c : List Byte} {i : Instr} (h : decodeTag c = .ok i) : transactionOf i = none := by
  rcases decodeTag_ok h with ⟨tail, rfl⟩ | ⟨head, rfl⟩ <;> rfl

theorem transactionOf_decodeAccess {op : HostOp} {i : Instr} (h : decodeAccess op = .ok i) : transactionOf i = none := by
  rcases decodeAccess_ok h with ⟨a, -, rfl⟩ | ⟨a, v, -, rfl⟩ | ⟨-, rfl⟩ <;> rfl

theorem decodeTxn_transactionOf {bytes rest : List Byte} {i : Instr} (h : decodeTxn bytes = .ok (i, rest)) :
    ∃ txn, transactionOf i = some txn := by
  rcases decodeTxn_ok h with ⟨data, rfl⟩ | rfl | ⟨tag, rfl⟩ <;> exact ⟨_, rfl⟩

/-- The effect of a host access, from the state past its line. -/
theorem exec_access_effect {s t : State} {op : HostOp} {rest : List HostOp} {i : Instr} (resets : List Nat) (hop : s.op = .idle)
    (hline : s.host = op :: rest) (hi : decodeAccess op = .ok i) (h : exec i { s with host := rest } = .next t) :
    StepEffect s { t with resets := resets } := by
  rcases decodeAccess_ok hi with ⟨a, rfl, rfl⟩ | ⟨a, v, rfl, rfl⟩ | ⟨rfl, rfl⟩
  · obtain ⟨-, h⟩ := betweenTransactions_next h
    split at h <;> cases h
    exact .outside s.rx rest resets _
  · obtain ⟨-, h⟩ := betweenTransactions_next h
    split at h <;> cases h
    rcases writeRegister_cases a v { s with host := rest } with ⟨rfl, hv, e⟩ | ⟨rfl, hphase, e⟩ | e <;> rw [e]
    · exact .reset (.inr ⟨hop, .inr ⟨v, by simp [hline], hv⟩⟩) (resetCore_afterReset _)
    · exact .pcmWrite v rest resets hop hphase hline
    · exact .outside s.rx rest resets s.log
  · cases h
    exact .reset (.inr ⟨hop, .inl (by simp [hline])⟩) (resetCore_afterReset _)

/-- The effect of what is next. -/
theorem perform_effect {run : Instr → State → Answer} (hrun : RunsInstructions run) {s t : State} (resets : List Nat)
    (h : perform run s = .next t) : StepEffect s { t with resets := resets } := by
  rcases perform_next h with ⟨i, rx, host, hselect, hi⟩ | ⟨-, hadvance⟩ | ⟨rx, host, -, rfl⟩ | ⟨-, rfl⟩
  · rcases select_run hselect with ⟨hop, hphase, rest, hdecode, e⟩ | ⟨hop, op, rest, hline, hdecode, e⟩ |
      ⟨e, c, hop, hdecode⟩ | ⟨e, p, w, hop, hword, rfl⟩ <;> rw [e] at hi
    · obtain ⟨txn, htxn⟩ := decodeTxn_transactionOf hdecode
      obtain ⟨n, hdrive⟩ := hrun.transaction i txn { s with rx := rest } t htxn hop hphase hi
      exact .transaction i txn rest n t resets hop hphase hdecode htxn hdrive
    · rw [hrun.other _ _ (transactionOf_decodeAccess hdecode)] at hi
      exact exec_access_effect resets hop hline hdecode hi
    · rw [hrun.other _ _ (transactionOf_decodeTag hdecode), exec_decodeTag hop hdecode] at hi
      cases hi
      exact .row _ resets (by simp only [advance, hop])
    · rw [hrun.other _ _ (transactionOf_decodeHdr w), exec_decodeHdr hop hword] at hi
      cases hi
      exact .row _ resets (by simp only [advance, hop])
  · exact .small t resets hadvance
  · exact .outside rx host resets s.log
  · exact .outside t.rx t.host resets t.log

/-- Every step that answers a next state is one of the effects. -/
theorem step_effect {s t : State} (h : step s = .next t) : StepEffect s t := by
  rcases step_next h with ⟨-, hquiet⟩ | ⟨later, hresets, rfl⟩ | ⟨k, later, u, -, hsmall, rfl⟩
  · exact perform_effect exec_runsInstructions t.resets hquiet
  · exact .reset (.inl (by simp [hresets])) (resetCore_afterReset _)
  · unfold smallStep at hsmall
    split at hsmall
    · exact perform_effect beginInstr_runsInstructions _ hsmall
    · exact .small u _ hsmall

end Sys2Proof.Machine

/-! SUPPORT. The invariant of CORE, kept by each shared operation, by each small step and by every step (R20 to R29, R172). -/

namespace Sys2Proof.Machine

open Sys2Proof.Spec

/-! ## What taking a transaction does, said once -/

/-- A CHUNK in TAG_HEAD, TAG_SKIP or DEMUX faults when it is empty (R209). -/
theorem takeChunk_cases (data : List Byte) (s : State) :
    (s.phase = .faulted ∧ takeChunk data s = { s with op := .idle }) ∨
    takeChunk data s = enterFault .protocol 0 0#32 s ∨
    (data ≠ [] ∧ s.phase = .tagHead ∧ takeChunk data s = { s with op := .tagCheck data }) ∨
    (data ≠ [] ∧ s.phase = .tagSkip ∧ takeChunk data s = skipTag s.tagRemain.toNat data s) ∨
    (data ≠ [] ∧ s.phase = .demux ∧ takeChunk data s = beginProcess data s) := by
  by_cases hdata : data = [] <;> cases hphase : s.phase <;> simp [takeChunk, hdata, hphase]

theorem takeEos_cases (s : State) :
    (s.phase = .faulted ∧ takeEos s = { s with op := .idle }) ∨
    (∃ code, code ≠ .none ∧ takeEos s = enterFault code 0 0#32 s) ∨
    (s.phase ≠ .faulted ∧ takeEos s = endStream s) := by
  unfold takeEos
  split <;> rename_i hphase
  · exact .inl ⟨hphase, rfl⟩
  · exact .inr (.inl ⟨.protocol, by decide, rfl⟩)
  · exact .inr (.inr ⟨by simp [hphase], rfl⟩)
  · split
    · exact .inr (.inl ⟨.malformedTag, by decide, rfl⟩)
    · exact .inr (.inr ⟨by simp [hphase], rfl⟩)
  · exact .inr (.inr ⟨by simp [hphase], rfl⟩)

theorem takeIllegal_cases (s : State) :
    (s.phase = .faulted ∧ takeIllegal s = { s with op := .idle }) ∨ takeIllegal s = enterFault .protocol 0 0#32 s := by
  cases hphase : s.phase <;> simp [takeIllegal, hphase]

/-- What a transaction that was taken does first, in every phase (R200 to R209). -/
theorem takeTransaction_cases (txn : Txn) (s : State) :
    (s.phase = .faulted ∧ takeTransaction txn s = { s with op := .idle }) ∨
    (∃ code, code ≠ .none ∧ takeTransaction txn s = enterFault code 0 0#32 s) ∨
    (s.phase ≠ .faulted ∧ takeTransaction txn s = endStream s) ∨
    (∃ data, txn = .chunk data ∧ data ≠ [] ∧ s.phase = .tagHead ∧ takeTransaction txn s = { s with op := .tagCheck data }) ∨
    (∃ data, txn = .chunk data ∧ data ≠ [] ∧ s.phase = .tagSkip ∧
      takeTransaction txn s = skipTag s.tagRemain.toNat data s) ∨
    (∃ data, txn = .chunk data ∧ data ≠ [] ∧ s.phase = .demux ∧ takeTransaction txn s = beginProcess data s) := by
  cases txn with
  | chunk data =>
    rcases takeChunk_cases data s with h | h | h | h | h
    · exact .inl h
    · exact .inr (.inl ⟨.protocol, by decide, h⟩)
    · exact .inr (.inr (.inr (.inl ⟨data, rfl, h⟩)))
    · exact .inr (.inr (.inr (.inr (.inl ⟨data, rfl, h⟩))))
    · exact .inr (.inr (.inr (.inr (.inr ⟨data, rfl, h⟩))))
  | eos =>
    rcases takeEos_cases s with h | h | h
    · exact .inl h
    · exact .inr (.inl h)
    · exact .inr (.inr (.inl h))
  | illegal tag =>
    rcases takeIllegal_cases s with h | h
    · exact .inl h
    · exact .inr (.inl ⟨.protocol, by decide, h⟩)

/-! ## The values of LEFTOVER_LEN and TAG_LEN -/

theorem leftoverLenBits_toNat {n : Nat} (h : n < 2 ^ 32) : (leftoverLenBits n).toNat = n := by
  rw [leftoverLenBits_of_lt h, BitVec.toNat_ofNat, Nat.mod_eq_of_lt h]

/-- ID3LEN faults with SHORT_TAG_HEADER, or measures 0 or 10 to 268435465 bytes (R101, R102). -/
theorem id3Len_cases (c : List Byte) :
    id3Len c = .error .shortTagHeader ∨ ∃ r, id3Len c = .ok r ∧ (r = 0 ∨ 10 ≤ r ∧ r ≤ 268435465) := by
  unfold id3Len
  split
  · split
    · exact .inl rfl
    · have hsize := (tagBodySize c).isLt
      refine .inr ⟨_, rfl, .inr ?_⟩
      simp only [Config.id3HdrLen]
      omega
  · split
    · exact .inl rfl
    · exact .inr ⟨0, rfl, .inl rfl⟩

theorem id3Len_error {c : List Byte} {code : FaultCode} (h : id3Len c = .error code) : code = .shortTagHeader := by
  rcases id3Len_cases c with e | ⟨r, e, -⟩ <;> rw [h] at e <;> cases e
  rfl

/-- A length ID3LEN measures fits TAG_LEN (R22, R102). -/
theorem id3Len_fits {c : List Byte} {r : Nat} (h : id3Len c = .ok r) :
    (BitVec.ofNat 29 r).toNat = r ∧ (r = 0 ∨ 10 ≤ r ∧ r ≤ 268435465) := by
  rcases id3Len_cases c with e | ⟨r', e, hr⟩ <;> rw [h] at e <;> cases e
  rw [BitVec.toNat_ofNat, Nat.mod_eq_of_lt (by omega)]
  exact ⟨rfl, hr⟩

/-! ## Fault entry, the stream's end and reset -/

/-- What the invariant says of the operation in progress, once that is known. -/
theorem CoreInv.opInv {s : State} (hs : CoreInv s) {op : Op} (hop : s.op = op) : OpInv { s with op := op } := by
  subst hop
  exact hs.opOk

/-- Fault entry with a fault of R220 keeps the invariant. -/
theorem CoreInv.enterFault {s : State} (hs : CoreInv s) {code : FaultCode} (hcode : code ≠ .none) (off : Nat) (h : Word32) :
    CoreInv (enterFault code off h s) :=
  { hs with
    tagRemainZero := by simp
    tagLenFresh := by simp
    leftoverFresh := by simp
    faulted := fun _ => ⟨code, hcode, rfl, rfl⟩
    notFaulted := fun hphase => absurd rfl hphase
    opOk := rfl }

theorem CoreInv.sendFail {s : State} (hs : CoreInv s) : CoreInv (sendFail s) :=
  { hs with opOk := trivial }

theorem CoreInv.finishFault {s : State} (hs : CoreInv s) : CoreInv (finishFault s) := by
  unfold Machine.finishFault
  split
  · exact hs.sendFail
  · exact hs

theorem CoreInv.endStream {s : State} (hs : CoreInv s) (hphase : s.phase ≠ .faulted) : CoreInv (endStream s) :=
  { hs with
    tagRemainZero := by simp
    tagLenFresh := by simp
    leftoverFresh := by simp
    faulted := by simp
    notFaulted := fun _ => hs.notFaulted hphase
    opOk := rfl }

theorem CoreInv.sendEnd {s : State} (hs : CoreInv s) : CoreInv (sendEnd s) :=
  { hs with opOk := trivial }

/-- The registers of R251's table meet the invariant. -/
theorem CoreInv.of_afterReset {s t : State} (h : AfterReset s t) : CoreInv t := by
  obtain ⟨hphase, htagLen, htagRemain, hleftover, hleftoverLen, -, hclear, -, -, -, hop⟩ := h
  constructor
  case leftoverFits => exact hleftover ▸ Memory.wf_nil
  case opOk => simp only [OpInv, hop]
  all_goals simp [*]

/-! ## PROCESS -/

/-- PROCESS begins in DEMUX with a working buffer that fits, or faults (R161, R162). -/
theorem CoreInv.beginProcess {s : State} (hs : CoreInv s) (hphase : s.phase = .demux) (c : List Byte) :
    CoreInv (beginProcess c s) := by
  rcases beginProcess_cases c s with ⟨-, e⟩ | ⟨hfits, e⟩ <;> rw [e]
  · exact hs.enterFault (by decide) _ _
  · exact { hs with opOk := ⟨hphase, overCapacity_eq_false hfits (by simp), rfl⟩ }

section
variable {s : State} (hs : CoreInv s)
include hs

/-- One result of HDRPARSE keeps the invariant of the scan (R163 to R167). -/
theorem CoreInv.applyHdr {p : Scan} (hop : s.op = .scan p) : CoreInv (applyHdr (hdrParse p.buf p.off) p s) := by
  obtain ⟨hphase, hbuf, hoff⟩ := hs.opInv hop
  have hend : ∀ stop, CoreInv (endScan stop p s) := fun stop =>
    { hs with opOk := ⟨hphase, leftoverOf_wf _ _ hbuf, Nat.zero_le _, completeCount_le _ _⟩ }
  cases hp : hdrParse p.buf p.off with
  | short => exact hend .short
  | nosync => exact hend .nosync
  | frame size => exact { hs with opOk := ⟨hphase, hbuf, by simp [hoff]⟩ }
  | bad code h =>
    have hcode : code ≠ .none := by
      rcases hdrParse_bad hp with rfl | rfl | rfl <;> decide
    exact hs.enterFault hcode _ _

/-- A DEC call keeps the invariant (R168, R169). -/
theorem CoreInv.decStep {t : State} {d : Dispatching} (hop : s.op = .dispatch d) (hnext : d.next < d.nc)
    (h : decStep d s = .next t) : CoreInv t := by
  have hcalled : CoreInv (dropAnswer (emit (.dec (nextCall d s)) s)) := { hs with }
  obtain ⟨hphase, hleft, -, hnc⟩ := hs.opInv hop
  rcases decStep_next h with ⟨k, -, rfl⟩ | ⟨-, rfl⟩
  · rcases acceptSamples_cases k d (dropAnswer (emit (.dec (nextCall d s)) s)) with ⟨-, e⟩ | ⟨-, e⟩ <;> rw [e]
    · exact hcalled.enterFault (by decide) _ _
    · exact { hcalled with opOk := ⟨hphase, hleft, hnext, hnc⟩ }
  · exact hcalled.enterFault (by decide) _ _

/-- The ILV call keeps the invariant (R170). -/
theorem CoreInv.interleave {d : Dispatching} (hop : s.op = .dispatch d) : CoreInv (interleave d s) := by
  obtain ⟨hphase, hleft, -⟩ := hs.opInv hop
  rcases interleave_cases d s with ⟨-, e⟩ | ⟨-, e⟩ <;> rw [e]
  · exact hs.enterFault (by decide) _ _
  · exact { hs with opOk := ⟨hphase, hleft⟩ }

theorem CoreInv.emitSegment {seg : Segment} {newLeft : List Byte} (hop : s.op = .output seg newLeft) :
    CoreInv (emitSegment seg newLeft s) :=
  { hs with opOk := hs.opInv hop }

/-- The commit leaves LEFTOVER_LEN the length of LEFTOVER (R172). -/
theorem CoreInv.commitLeftover {newLeft : List Byte} (hop : s.op = .commit newLeft) : CoreInv (commitLeftover newLeft s) := by
  obtain ⟨hphase, hleft⟩ := hs.opInv hop
  exact
    { hs with
      leftoverFits := hleft
      leftoverLenIsLength := leftoverLenBits_toNat
      leftoverLenReads := rfl
      leftoverFresh := fun h => by
        rcases h with h | h <;> exact absurd (hphase.symm.trans h) (by decide)
      opOk := trivial }

/-! ## TAGSKIP -/

/-- The writes of TAGSKIP keep the invariant between transactions: TAG_LEN a length ID3LEN measures, TAG_REMAIN what is left of it,
and PHASE TAG_SKIP, or DEMUX with nothing left (R103, R104). -/
theorem CoreInv.tagWritten (hphase : s.phase = .tagHead ∨ s.phase = .tagSkip) {len remain : BitVec 29}
    (hrange : len.toNat = 0 ∨ 10 ≤ len.toNat ∧ len.toNat ≤ 268435465) (hremain : remain.toNat ≤ len.toNat) {phase : Phase}
    (hto : phase = .tagSkip ∨ phase = .demux ∧ remain = 0#29) :
    CoreInv { s with tagLen := len, tagRemain := remain, phase := phase, op := .idle } := by
  have hclear : FaultClear s := hs.notFaulted (by rcases hphase with h | h <;> simp [h])
  exact
    { hs with
      tagLenRange := hrange
      tagRemainBound := hremain
      tagRemainZero := by rcases hto with rfl | ⟨rfl, rfl⟩ <;> simp
      tagLenFresh := by rcases hto with rfl | ⟨rfl, -⟩ <;> simp
      leftoverFresh := fun _ => hs.leftoverFresh hphase
      faulted := by rcases hto with rfl | ⟨rfl, -⟩ <;> simp
      notFaulted := fun _ => hclear
      opOk := trivial }

/-- TAGSKIP with `r` bytes of the tag to skip keeps the invariant (R103). -/
theorem CoreInv.skipTag (hphase : s.phase = .tagHead ∨ s.phase = .tagSkip) {len : BitVec 29}
    (hrange : len.toNat = 0 ∨ 10 ≤ len.toNat ∧ len.toNat ≤ 268435465) {r : Nat} (hr : r ≤ len.toNat) (c : List Byte) :
    CoreInv (skipTag r c { s with tagLen := len }) := by
  rcases skipTag_cases r c { s with tagLen := len } with ⟨-, e⟩ | ⟨-, e⟩ <;> rw [e]
  · exact CoreInv.beginProcess (s := { s with tagLen := len, tagRemain := 0#29, phase := .demux, op := .idle })
      (hs.tagWritten hphase hrange (Nat.zero_le _) (.inr ⟨rfl, rfl⟩)) rfl (c.drop r)
  · refine hs.tagWritten hphase hrange ?_ (.inl rfl)
    rw [BitVec.toNat_ofNat]
    exact (Nat.mod_le _ _).trans (by omega)

/-- The ID3v2 check keeps the invariant (R101, R103). -/
theorem CoreInv.applyTag {c : List Byte} (hop : s.op = .tagCheck c) : CoreInv (applyTag (id3Len c) c s) := by
  obtain ⟨hphase, -⟩ := hs.opInv hop
  cases e : id3Len c with
  | error code =>
    have hcode : code ≠ .none := by simp [id3Len_error e]
    exact hs.enterFault hcode _ _
  | ok r =>
    obtain ⟨hlen, hr⟩ := id3Len_fits e
    exact hs.skipTag (.inl hphase) (by rwa [hlen]) hlen.ge c

/-! ## What taking a transaction does -/

theorem CoreInv.takeTransaction (txn : Txn) : CoreInv (takeTransaction txn s) := by
  rcases takeTransaction_cases txn s with ⟨-, e⟩ | ⟨code, hcode, e⟩ | ⟨hphase, e⟩ | ⟨data, -, hdata, hphase, e⟩ |
    ⟨data, -, -, hphase, e⟩ | ⟨data, -, -, hphase, e⟩ <;> rw [e]
  · exact { hs with opOk := trivial }
  · exact hs.enterFault hcode _ _
  · exact hs.endStream hphase
  · exact { hs with opOk := ⟨hphase, hdata⟩ }
  · exact hs.skipTag (.inr hphase) hs.tagLenRange hs.tagRemainBound data
  · exact hs.beginProcess hphase data

end

/-! ## Small steps and steps -/

/-- Every small step keeps the invariant. -/
theorem CoreInv.advance {s t : State} (hs : CoreInv s) (h : advance s = .next t) : CoreInv t := by
  rcases advance_next h with ⟨-, rfl⟩ | ⟨txn, -, rfl⟩ | ⟨-, rfl⟩ | ⟨-, rfl⟩ | ⟨c, hop, rfl⟩ | ⟨p, hop, rfl⟩ |
    ⟨d, hop, hnext, hdec⟩ | ⟨d, hop, -, rfl⟩ | ⟨seg, newLeft, hop, rfl⟩ | ⟨newLeft, hop, rfl⟩
  · exact hs
  · exact hs.takeTransaction txn
  · exact hs.sendFail
  · exact hs.sendEnd
  · exact hs.applyTag hop
  · exact hs.applyHdr hop
  · exact hs.decStep hop hnext hdec
  · exact hs.interleave hop
  · exact hs.emitSegment hop
  · exact hs.commitLeftover hop

theorem CoreInv.drive {n : Nat} {s t : State} (hs : CoreInv s) (h : drive n s = .next t) : CoreInv t :=
  drive_keeps (fun _ _ => CoreInv.advance) hs h

/-- Every step keeps the invariant. -/
theorem CoreInv.step {s t : State} (hs : CoreInv s) (h : step s = .next t) : CoreInv t := by
  cases step_effect h with
  | reset hcomes hafter => exact .of_afterReset hafter
  | pcmWrite v rest resets hop hphase hline => exact { hs with }
  | outside rx host resets log => exact { hs with }
  | small u resets hadvance => exact { hs.advance hadvance with }
  | row u resets hadvance => exact { (hs.advance hadvance).finishFault with }
  | transaction i txn rest n u resets hop hphase hdecode htxn hdrive =>
    have hreceived : CoreInv { s with rx := rest, op := .received txn } := { hs with opOk := hphase }
    exact { hreceived.drive hdrive with }

/-- Settles O54: the invariant is kept by every step, and LEFTOVER_LEN is a part of it. -/
theorem stepKeepsInvariant : Obligations.StepKeepsInvariant := fun _ _ hs h =>
  have ht := hs.step h
  ⟨ht, ht.leftoverLenIsLength⟩

end Sys2Proof.Machine

/-! SUPPORT. What the small steps of a transaction leave of PCM_BUFFER_SIZE and of the outside world, and when they write TAG_LEN
(R22, R27). -/

namespace Sys2Proof.Machine

open Sys2Proof.Spec

/-! ## What no small step writes -/

/-- `t` has the PCM_BUFFER_SIZE, the parameters, the input port, the host's lines and the reset inputs to come of `s`. -/
structure SameInputs (s t : State) : Prop where
  pcmBufferSize : t.pcmBufferSize = s.pcmBufferSize
  params : t.params = s.params
  rx : t.rx = s.rx
  host : t.host = s.host
  resets : t.resets = s.resets

theorem SameInputs.refl (s : State) : SameInputs s s := ⟨rfl, rfl, rfl, rfl, rfl⟩

theorem SameInputs.trans {s t u : State} (hst : SameInputs s t) (htu : SameInputs t u) : SameInputs s u :=
  ⟨htu.1.trans hst.1, htu.2.trans hst.2, htu.3.trans hst.3, htu.4.trans hst.4, htu.5.trans hst.5⟩

theorem enterFault_sameInputs (code : FaultCode) (off : Nat) (h : Word32) (s : State) : SameInputs s (enterFault code off h s) :=
  ⟨rfl, rfl, rfl, rfl, rfl⟩

theorem beginProcess_sameInputs (c : List Byte) (s : State) : SameInputs s (beginProcess c s) := by
  rcases beginProcess_cases c s with ⟨-, e⟩ | ⟨-, e⟩ <;> rw [e] <;> exact ⟨rfl, rfl, rfl, rfl, rfl⟩

theorem skipTag_sameInputs (r : Nat) (c : List Byte) (s : State) : SameInputs s (skipTag r c s) := by
  rcases skipTag_cases r c s with ⟨-, e⟩ | ⟨-, e⟩ <;> rw [e]
  · exact { beginProcess_sameInputs (c.drop r) { s with tagRemain := 0#29, phase := .demux } with }
  · exact ⟨rfl, rfl, rfl, rfl, rfl⟩

theorem takeTransaction_sameInputs (txn : Txn) (s : State) : SameInputs s (takeTransaction txn s) := by
  rcases takeTransaction_cases txn s with ⟨-, e⟩ | ⟨code, -, e⟩ | ⟨-, e⟩ | ⟨data, -, -, -, e⟩ | ⟨data, -, -, -, e⟩ |
    ⟨data, -, -, -, e⟩ <;> rw [e]
  · exact ⟨rfl, rfl, rfl, rfl, rfl⟩
  · exact enterFault_sameInputs _ _ _ s
  · exact ⟨rfl, rfl, rfl, rfl, rfl⟩
  · exact ⟨rfl, rfl, rfl, rfl, rfl⟩
  · exact skipTag_sameInputs _ _ s
  · exact beginProcess_sameInputs _ s

theorem applyTag_sameInputs (r : Except FaultCode Nat) (c : List Byte) (s : State) : SameInputs s (applyTag r c s) := by
  cases r with
  | error code => exact enterFault_sameInputs _ _ _ s
  | ok len => exact { skipTag_sameInputs len c { s with tagLen := BitVec.ofNat 29 len } with }

theorem applyHdr_sameInputs (r : HdrResult) (p : Scan) (s : State) : SameInputs s (applyHdr r p s) := by
  cases r <;> exact ⟨rfl, rfl, rfl, rfl, rfl⟩

theorem decStep_sameInputs {d : Dispatching} {s t : State} (h : decStep d s = .next t) : SameInputs s t := by
  rcases decStep_next h with ⟨k, -, rfl⟩ | ⟨-, rfl⟩
  · rcases acceptSamples_cases k d (dropAnswer (emit (.dec (nextCall d s)) s)) with ⟨-, e⟩ | ⟨-, e⟩ <;> rw [e] <;>
      exact ⟨rfl, rfl, rfl, rfl, rfl⟩
  · exact ⟨rfl, rfl, rfl, rfl, rfl⟩

theorem interleave_sameInputs (d : Dispatching) (s : State) : SameInputs s (interleave d s) := by
  rcases interleave_cases d s with ⟨-, e⟩ | ⟨-, e⟩ <;> rw [e] <;> exact ⟨rfl, rfl, rfl, rfl, rfl⟩

theorem advance_sameInputs {s t : State} (h : advance s = .next t) : SameInputs s t := by
  rcases advance_next h with ⟨-, rfl⟩ | ⟨txn, -, rfl⟩ | ⟨-, rfl⟩ | ⟨-, rfl⟩ | ⟨c, -, rfl⟩ | ⟨p, -, rfl⟩ | ⟨d, -, -, hdec⟩ |
    ⟨d, -, -, rfl⟩ | ⟨seg, newLeft, -, rfl⟩ | ⟨newLeft, -, rfl⟩
  · exact .refl _
  · exact takeTransaction_sameInputs txn s
  · exact ⟨rfl, rfl, rfl, rfl, rfl⟩
  · exact ⟨rfl, rfl, rfl, rfl, rfl⟩
  · exact applyTag_sameInputs _ c s
  · exact applyHdr_sameInputs _ p s
  · exact decStep_sameInputs hdec
  · exact interleave_sameInputs d s
  · exact ⟨rfl, rfl, rfl, rfl, rfl⟩
  · exact ⟨rfl, rfl, rfl, rfl, rfl⟩

theorem drive_sameInputs {n : Nat} {s t : State} (h : drive n s = .next t) : SameInputs s t :=
  drive_keeps (P := SameInputs s) (fun _ _ hs ha => hs.trans (advance_sameInputs ha)) (.refl s) h

theorem finishFault_sameInputs (s : State) : SameInputs s (finishFault s) := by
  unfold finishFault
  split <;> exact ⟨rfl, rfl, rfl, rfl, rfl⟩

/-- Settles O8: small steps keep PCM_BUFFER_SIZE, so only a reset or the host's write of it changes it. -/
theorem pcmBufferSizeWriters : Obligations.PcmBufferSizeWriters := by
  intro s t h
  cases step_effect h with
  | reset hcomes hafter => exact .inr (.inl ⟨hcomes, hafter⟩)
  | pcmWrite v rest resets hop hphase hline => exact .inr (.inr ⟨hop, hphase, v, rest, hline, rfl⟩)
  | outside rx host resets log => exact .inl rfl
  | small u resets hadvance => exact .inl (advance_sameInputs hadvance).pcmBufferSize
  | row u resets hadvance =>
    exact .inl ((advance_sameInputs hadvance).trans (finishFault_sameInputs u)).pcmBufferSize
  | transaction i txn rest n u resets hop hphase hdecode htxn hdrive =>
    exact .inl (drive_sameInputs hdrive).pcmBufferSize

/-! ## When TAG_LEN is written -/

/-- The CHUNK whose tag the operation in progress still measures: one under its ID3v2 check, or taken in TAG_HEAD (R101, R201). -/
def chunkToMeasure (s : State) : Option (List Byte) :=
  match s.op with
  | .received (.chunk c) => if s.phase = .tagHead then some c else none
  | .tagCheck c => some c
  | _ => none

theorem chunkToMeasure_received {s : State} {txn : Txn} {c : List Byte} (hop : s.op = .received txn)
    (h : chunkToMeasure s = some c) : s.phase = .tagHead ∧ txn = .chunk c := by
  cases txn with
  | chunk data =>
    simp only [chunkToMeasure, hop] at h
    split at h <;> cases h
    exact ⟨‹_›, rfl⟩
  | eos => simp [chunkToMeasure, hop] at h
  | illegal tag => simp [chunkToMeasure, hop] at h

/-- TAG_LEN is what it was, and nothing is to be measured, or still the same CHUNK. -/
structure KeepsTagLen (s t : State) : Prop where
  tagLen : t.tagLen = s.tagLen
  measures : chunkToMeasure t = none ∨ chunkToMeasure t = chunkToMeasure s

/-- TAG_LEN is the length ID3LEN measured on `c`, and nothing more is to be measured. -/
def MeasuredTagLen (c : List Byte) (t : State) : Prop :=
  chunkToMeasure t = none ∧ ∃ r, id3Len c = .ok r ∧ t.tagLen = BitVec.ofNat 29 r

/-- PROCESS leaves TAG_LEN and measures nothing. -/
theorem beginProcess_tagLen (c : List Byte) (s : State) :
    (beginProcess c s).tagLen = s.tagLen ∧ chunkToMeasure (beginProcess c s) = none := by
  rcases beginProcess_cases c s with ⟨-, e⟩ | ⟨-, e⟩ <;> rw [e] <;> exact ⟨rfl, rfl⟩

/-- TAGSKIP after the check leaves TAG_LEN and measures nothing. -/
theorem skipTag_tagLen (r : Nat) (c : List Byte) (s : State) :
    (skipTag r c s).tagLen = s.tagLen ∧ chunkToMeasure (skipTag r c s) = none := by
  rcases skipTag_cases r c s with ⟨-, e⟩ | ⟨-, e⟩ <;> rw [e]
  · exact beginProcess_tagLen (c.drop r) { s with tagRemain := 0#29, phase := .demux }
  · exact ⟨rfl, rfl⟩

theorem takeTransaction_keepsTagLen {txn : Txn} {s : State} (hop : s.op = .received txn) :
    KeepsTagLen s (takeTransaction txn s) := by
  rcases takeTransaction_cases txn s with ⟨-, e⟩ | ⟨code, -, e⟩ | ⟨-, e⟩ | ⟨data, rfl, -, hphase, e⟩ | ⟨data, -, -, -, e⟩ |
    ⟨data, -, -, -, e⟩ <;> rw [e]
  · exact ⟨rfl, .inl rfl⟩
  · exact ⟨rfl, .inl rfl⟩
  · exact ⟨rfl, .inl rfl⟩
  · exact ⟨rfl, .inr (by simp [chunkToMeasure, hop, hphase])⟩
  · obtain ⟨hlen, hmeasures⟩ := skipTag_tagLen s.tagRemain.toNat data s
    exact ⟨hlen, .inl hmeasures⟩
  · obtain ⟨hlen, hmeasures⟩ := beginProcess_tagLen data s
    exact ⟨hlen, .inl hmeasures⟩

/-- A small step leaves TAG_LEN, but for the ID3v2 check of a first chunk, which writes the length it measures (R101, R103). -/
theorem advance_tagLen {s t : State} (h : advance s = .next t) :
    KeepsTagLen s t ∨ ∃ c, s.op = .tagCheck c ∧ MeasuredTagLen c t := by
  rcases advance_next h with ⟨-, rfl⟩ | ⟨txn, hop, rfl⟩ | ⟨-, rfl⟩ | ⟨-, rfl⟩ | ⟨c, hop, rfl⟩ | ⟨p, -, rfl⟩ | ⟨d, -, -, hdec⟩ |
    ⟨d, -, -, rfl⟩ | ⟨seg, newLeft, -, rfl⟩ | ⟨newLeft, -, rfl⟩
  · exact .inl ⟨rfl, .inr rfl⟩
  · exact .inl (takeTransaction_keepsTagLen hop)
  · exact .inl ⟨rfl, .inl rfl⟩
  · exact .inl ⟨rfl, .inl rfl⟩
  · cases e : id3Len c with
    | error code => exact .inl ⟨rfl, .inl rfl⟩
    | ok r =>
      obtain ⟨hlen, hmeasures⟩ := skipTag_tagLen r c { s with tagLen := BitVec.ofNat 29 r }
      exact .inr ⟨c, hop, hmeasures, r, e, hlen⟩
  · cases hdrParse p.buf p.off <;> exact .inl ⟨rfl, .inl rfl⟩
  · rcases decStep_next hdec with ⟨k, -, rfl⟩ | ⟨-, rfl⟩
    · rcases acceptSamples_cases k d (dropAnswer (emit (.dec (nextCall d s)) s)) with ⟨-, e⟩ | ⟨-, e⟩ <;> rw [e] <;>
        exact .inl ⟨rfl, .inl rfl⟩
    · exact .inl ⟨rfl, .inl rfl⟩
  · rcases interleave_cases d s with ⟨-, e⟩ | ⟨-, e⟩ <;> rw [e] <;> exact .inl ⟨rfl, .inl rfl⟩
  · exact .inl ⟨rfl, .inl rfl⟩
  · exact .inl ⟨rfl, .inl rfl⟩

/-- Small steps leave TAG_LEN, or write the length ID3LEN measures on the CHUNK that was to be measured. -/
theorem drive_tagLen {n : Nat} {s t : State} (h : drive n s = .next t) :
    KeepsTagLen s t ∨ ∃ c, chunkToMeasure s = some c ∧ MeasuredTagLen c t := by
  refine drive_keeps (P := fun u => KeepsTagLen s u ∨ ∃ c, chunkToMeasure s = some c ∧ MeasuredTagLen c u) ?_
    (.inl ⟨rfl, .inr rfl⟩) h
  intro a b ha hadvance
  rcases ha with ⟨hlen, hmeasures⟩ | ⟨c, hc, hmeasures, r, hr, hlen⟩ <;>
    rcases advance_tagLen hadvance with ⟨hlen', hmeasures'⟩ | ⟨c', hop, hmeasured⟩
  · exact .inl ⟨hlen'.trans hlen, hmeasures'.elim .inl fun e => e ▸ hmeasures⟩
  · have hc' : chunkToMeasure a = some c' := by simp only [chunkToMeasure, hop]
    rw [hc'] at hmeasures
    exact .inr ⟨c', (hmeasures.resolve_left (by simp)).symm, hmeasured⟩
  · exact .inr ⟨c, hc, hmeasures'.elim id fun e => e.trans hmeasures, r, hr, hlen'.trans hlen⟩
  · simp [chunkToMeasure, hop] at hmeasures

theorem finishFault_tagLen (s : State) : (finishFault s).tagLen = s.tagLen := by
  unfold finishFault
  split <;> rfl

/-- Under the invariant a small step that writes TAG_LEN is the ID3v2 check of a first chunk in TAG_HEAD. -/
theorem CoreInv.advance_tagLen {s t : State} (hs : CoreInv s) (h : Machine.advance s = .next t) :
    t.tagLen = s.tagLen ∨ s.phase = .tagHead ∧ ∃ c r, s.op = .tagCheck c ∧ id3Len c = .ok r ∧ t.tagLen.toNat = r := by
  rcases Machine.advance_tagLen h with hkeeps | ⟨c, hop, -, r, hr, hlen⟩
  · exact .inl hkeeps.tagLen
  · obtain ⟨hphase, -⟩ := hs.opInv hop
    exact .inr ⟨hphase, c, r, hop, hr, hlen ▸ (id3Len_fits hr).1⟩

/-- Settles O16: small steps write TAG_LEN in the ID3v2 check only, which a step reaches from that check or from a CHUNK that it takes
in TAG_HEAD. -/
theorem tagLengthWrittenByFirstChunk : Obligations.TagLengthWrittenByFirstChunk := by
  intro s t hs h
  cases step_effect h with
  | reset hcomes hafter => exact .inr (.inr ⟨hcomes, hafter⟩)
  | pcmWrite v rest resets hop hphase hline => exact .inl rfl
  | outside rx host resets log => exact .inl rfl
  | small u resets hadvance =>
    rcases hs.advance_tagLen hadvance with hlen | ⟨hphase, c, r, hop, hr, hlen⟩
    · exact .inl hlen
    · exact .inr (.inl ⟨hphase, c, r, .inl hop, hr, hlen⟩)
  | row u resets hadvance =>
    have hu := finishFault_tagLen u
    rcases hs.advance_tagLen hadvance with hlen | ⟨hphase, c, r, hop, hr, hlen⟩
    · exact .inl (hu.trans hlen)
    · exact .inr (.inl ⟨hphase, c, r, .inl hop, hr, (congrArg BitVec.toNat hu).trans hlen⟩)
  | transaction i txn rest n u resets hop hphase hdecode htxn hdrive =>
    rcases drive_tagLen hdrive with hkeeps | ⟨c, hc, -, r, hr, hlen⟩
    · exact .inl hkeeps.tagLen
    · obtain ⟨hhead, rfl⟩ := chunkToMeasure_received rfl hc
      obtain rfl : i = .chunk c := by
        rcases transactionOf_eq_some htxn with ⟨data, rfl, e⟩ | ⟨-, e⟩ | ⟨tag, -, e⟩ <;> cases e
        rfl
      exact .inr (.inl ⟨hhead, c, r, .inr ⟨hop, rest, hdecode⟩, hr, hlen ▸ (id3Len_fits hr).1⟩)

end Sys2Proof.Machine

/-! SUPPORT. Instructions out of their place, and the steps of a transaction while a reset input is to come (R58, R250). -/

namespace Sys2Proof.Machine

/-! ## Instructions out of their place -/

theorem onScan_noScan {s : State} (hop : ∀ p, s.op ≠ .scan p) (effect : Scan → State) : onScan s effect = .fault .noScan := by
  unfold onScan
  split
  · exact absurd ‹_› (hop _)
  · rfl

theorem onTagCheck_noTagCheck {s : State} (hop : ∀ c, s.op ≠ .tagCheck c) (effect : List Byte → State) :
    onTagCheck s effect = .fault .noTagCheck := by
  unfold onTagCheck
  split
  · exact absurd ‹_› (hop _)
  · rfl

theorem betweenTransactions_inProgress {s : State} (hop : s.op ≠ .idle) (answer : Answer) :
    betweenTransactions s answer = .fault .transactionInProgress :=
  if_neg hop

/-- Every header row acts on a scan. -/
theorem exec_decodeHdr_noScan {s : State} (hop : ∀ p, s.op ≠ .scan p) (h : Word32) :
    exec (decodeHdr h) s = .fault .noScan := by
  unfold decodeHdr
  split_ifs <;> exact onScan_noScan hop _

/-- Settles O51: a header row acts on a scan, a tag row on the chunk under its ID3v2 check, every other row but the reset input
between transactions. -/
theorem instructionsOutOfPlaceStop : Obligations.InstructionsOutOfPlaceStop := by
  intro s b0 b1 b2 b3 tail data a v
  refine ⟨fun hop => exec_decodeHdr_noScan hop _, fun hop => ?_, fun hop => ?_⟩
  · exact ⟨onTagCheck_noTagCheck hop _, onTagCheck_noTagCheck hop _⟩
  · have hstop := betweenTransactions_inProgress hop
    exact ⟨hstop _, hstop _, hstop _, hstop _, hstop _⟩

/-! ## Steps while a reset input is to come -/

/-- A reset input that is to come is one step nearer after a small step (R250). -/
theorem step_resetToCome {s : State} {k : Nat} {later : List Nat} (hresets : s.resets = (k + 1) :: later) :
    step s = withResets (k :: later) (smallStep s) := by
  simp only [step, sequenceStep, hresets]

theorem smallStep_inProgress {s : State} (hop : s.op ≠ .idle) : smallStep s = advance s := if_neg hop

/-- While a reset input is to come, a transaction at the head of the input port is taken and nothing else happens (R58). -/
theorem smallStep_takes {s : State} {i : Instr} {txn : Txn} {rest : List Byte} (hop : s.op = .idle) (hphase : s.phase ≠ .faulted)
    (hdecode : decodeTxn s.rx = .ok (i, rest)) (htxn : transactionOf i = some txn) :
    smallStep s = .next { s with rx := rest, op := .received txn } := by
  have hselect : select s = .run i { s with rx := rest } := by
    simp only [select, hop, selectIdle, if_neg hphase, hdecode]
  simp only [smallStep, if_pos hop, perform, hselect, beginInstr, htxn]

/-- While a reset input is to come, a small step of the operation in progress is a step. -/
theorem step_of_advance {s t : State} {k : Nat} {later : List Nat} (hresets : s.resets = (k + 1) :: later) (hop : s.op ≠ .idle)
    (hadvance : advance s = .next t) : step s = .next { t with resets := k :: later } := by
  rw [step_resetToCome hresets, smallStep_inProgress hop, hadvance]
  rfl

/-- Settles O60: between transactions the small step takes the transaction; taking it, OUT(FAIL) and OUT(END) are small steps of the
operation in progress. -/
theorem transactionGoesStepByStep : Obligations.TransactionGoesStepByStep := by
  intro s k later hresets
  have hsmall : ∀ {op t}, s.op = op → op ≠ .idle → advance s = .next t → step s = .next { t with resets := k :: later } :=
    fun e hop => step_of_advance hresets (e ▸ hop)
  refine ⟨fun i txn rest hop hphase hdecode htxn => ?_, fun txn hop => ?_, fun hop => ?_, fun hop => ?_,
    fun t hop => step_of_advance hresets hop⟩
  · rw [step_resetToCome hresets, smallStep_takes hop hphase hdecode htxn]
    rfl
  · exact hsmall (t := takeTransaction txn s) hop Op.noConfusion (by simp only [advance, hop])
  · exact hsmall (t := sendFail s) hop Op.noConfusion (by simp only [advance, hop])
  · exact hsmall (t := sendEnd s) hop Op.noConfusion (by simp only [advance, hop])

end Sys2Proof.Machine

/-! SUPPORT. Every transaction runs to its end: each small step leaves fewer small steps to make, of which there are at most
`driveFuel` when the transaction is taken (R58, R163, R168). -/

namespace Sys2Proof.Machine

/-! ## The frames of a scan -/

/-- The shortest frame is that of 32 kbit/s at 48 kHz (R122, R125). -/
theorem fsize_ge {bi : BitVec 4} {si : BitVec 2} {p : BitVec 1} {size : Nat} (h : fsize bi si p = .ok size) : 96 ≤ size := by
  have hrate : ∀ bi : BitVec 4, ∀ kbps ∈ bitrateKbps bi, 32 ≤ kbps := by decide
  have hsample : ∀ si : BitVec 2, ∀ hz ∈ sampleRateHz si, 0 < hz ∧ hz ≤ 48000 := by decide
  unfold fsize at h
  split at h
  · cases h
  · split at h
    · cases h
    · rename_i kbps hk _ hz hh
      cases h
      have hkbps := hrate bi kbps hk
      obtain ⟨hpos, hmax⟩ := hsample si hz hh
      have hframe : 96 ≤ Config.fsMult * (1000 * kbps) / hz := by
        rw [Nat.le_div_iff_mul_le hpos]
        simp only [Config.fsMult]
        omega
      omega

/-- A frame that the scan records has its header in the working buffer and is no shorter than the shortest frame (R140, R163). -/
theorem hdrParse_frame {buf : List Byte} {off size : Nat} (h : hdrParse buf off = .frame size) :
    off + 4 ≤ buf.length ∧ 96 ≤ size := by
  constructor
  · by_contra hshort
    rw [hdrParse_eq_short.2 (by omega)] at h
    cases h
  · unfold hdrParse at h
    split at h
    · split at h
      · cases h
      · split at h
        · cases h
        · split at h
          · cases h
          · cases h
            exact fsize_ge ‹_›
    · cases h

/-! ## The small steps that are left -/

/-- A bound on the small steps that the operation in progress still has to make. A frame the scan records takes at least two bytes
off the rest of W and gives one DEC call more to make. -/
def stepsLeft (s : State) : Nat :=
  match s.op with
  | .idle => 0
  | .received (.chunk data) => s.leftover.length + data.length + 6
  | .received .eos => 2
  | .received (.illegal _) => 2
  | .failing => 1
  | .ending => 1
  | .tagCheck c => s.leftover.length + c.length + 5
  | .scan p => (p.buf.length - p.off) + p.sizes.length + 4
  | .dispatch d => (d.nc - d.next) + 3
  | .output _ _ => 2
  | .commit _ => 1

theorem stepsLeft_enterFault (code : FaultCode) (off : Nat) (h : Word32) (s : State) : stepsLeft (enterFault code off h s) = 1 := rfl

theorem stepsLeft_received (txn : Txn) {s : State} (hop : s.op = .received txn) : 2 ≤ stepsLeft s := by
  cases txn <;> simp [stepsLeft, hop]

theorem stepsLeft_beginProcess (c : List Byte) (s : State) : stepsLeft (beginProcess c s) ≤ s.leftover.length + c.length + 4 := by
  rcases beginProcess_cases c s with ⟨-, e⟩ | ⟨-, e⟩ <;> rw [e]
  · rw [stepsLeft_enterFault]
    omega
  · simp [stepsLeft]

theorem stepsLeft_skipTag (r : Nat) (c : List Byte) (s : State) : stepsLeft (skipTag r c s) ≤ s.leftover.length + c.length + 4 := by
  rcases skipTag_cases r c s with ⟨-, e⟩ | ⟨-, e⟩ <;> rw [e]
  · have hprocess := stepsLeft_beginProcess (c.drop r) { s with tagRemain := 0#29, phase := .demux }
    rw [List.length_drop] at hprocess
    exact hprocess.trans (by dsimp only; omega)
  · exact Nat.zero_le _

theorem stepsLeft_applyTag (r : Except FaultCode Nat) (c : List Byte) (s : State) :
    stepsLeft (applyTag r c s) ≤ s.leftover.length + c.length + 4 := by
  cases r with
  | error code => exact (stepsLeft_enterFault code 0 0#32 s).trans_le (by omega)
  | ok len => exact stepsLeft_skipTag len c { s with tagLen := BitVec.ofNat 29 len }

theorem stepsLeft_takeTransaction {txn : Txn} {s : State} (hop : s.op = .received txn) :
    stepsLeft (takeTransaction txn s) < stepsLeft s := by
  have hreceived := stepsLeft_received txn hop
  have hchunk : ∀ data, txn = .chunk data → stepsLeft s = s.leftover.length + data.length + 6 := by
    rintro data rfl
    simp only [stepsLeft, hop]
  rcases takeTransaction_cases txn s with ⟨-, e⟩ | ⟨code, -, e⟩ | ⟨-, e⟩ | ⟨data, htxn, -, -, e⟩ | ⟨data, htxn, -, -, e⟩ |
    ⟨data, htxn, -, -, e⟩ <;> rw [e]
  · exact (Nat.zero_lt_two).trans_le hreceived
  · exact (stepsLeft_enterFault code 0 0#32 s).trans_lt hreceived
  · exact hreceived
  · rw [hchunk data htxn]
    simp [stepsLeft]
  · rw [hchunk data htxn]
    exact (stepsLeft_skipTag s.tagRemain.toNat data s).trans_lt (by omega)
  · rw [hchunk data htxn]
    exact (stepsLeft_beginProcess data s).trans_lt (by omega)

/-- One HDRPARSE leaves fewer small steps: the scan stops, faults, or moves past a frame (R163). -/
theorem stepsLeft_applyHdr {p : Scan} {s : State} (hop : s.op = .scan p) :
    stepsLeft (applyHdr (hdrParse p.buf p.off) p s) < stepsLeft s := by
  have hscan : stepsLeft s = (p.buf.length - p.off) + p.sizes.length + 4 := by
    simp only [stepsLeft, hop]
  have hend : ∀ stop, stepsLeft (endScan stop p s) < stepsLeft s := fun stop => by
    have hcount := completeCount_le p.buf.length p.sizes
    rw [hscan]
    simp only [endScan, stepsLeft]
    omega
  cases hp : hdrParse p.buf p.off with
  | short => exact hend .short
  | nosync => exact hend .nosync
  | frame size =>
    obtain ⟨hheader, hsize⟩ := hdrParse_frame hp
    rw [hscan]
    simp only [applyHdr, recordFrame, stepsLeft, List.length_append, List.length_singleton]
    omega
  | bad code h =>
    rw [hscan]
    exact (stepsLeft_enterFault code p.off h s).trans_lt (by omega)

/-- One DEC call leaves fewer small steps: a fault, or one call fewer (R168, R169). -/
theorem stepsLeft_decStep {d : Dispatching} {s t : State} (hop : s.op = .dispatch d) (hnext : d.next < d.nc)
    (h : decStep d s = .next t) : stepsLeft t < stepsLeft s := by
  have hdispatch : stepsLeft s = (d.nc - d.next) + 3 := by
    simp only [stepsLeft, hop]
  rw [hdispatch]
  rcases decStep_next h with ⟨k, -, rfl⟩ | ⟨-, rfl⟩
  · rcases acceptSamples_cases k d (dropAnswer (emit (.dec (nextCall d s)) s)) with ⟨-, e⟩ | ⟨-, e⟩ <;> rw [e]
    · rw [stepsLeft_enterFault]
      omega
    · simp only [stepsLeft]
      omega
  · rw [stepsLeft_enterFault]
    omega

theorem stepsLeft_interleave {d : Dispatching} {s : State} (hop : s.op = .dispatch d) :
    stepsLeft (interleave d s) < stepsLeft s := by
  have hdispatch : 3 ≤ stepsLeft s := by
    simp [stepsLeft, hop]
  rcases interleave_cases d s with ⟨-, e⟩ | ⟨-, e⟩ <;> rw [e]
  · rw [stepsLeft_enterFault]
    omega
  · exact hdispatch

/-- Every small step of an operation in progress leaves fewer small steps. -/
theorem advance_stepsLeft {s t : State} (hop : s.op ≠ .idle) (h : advance s = .next t) : stepsLeft t < stepsLeft s := by
  rcases advance_next h with ⟨hidle, -⟩ | ⟨txn, e, rfl⟩ | ⟨e, rfl⟩ | ⟨e, rfl⟩ | ⟨c, e, rfl⟩ | ⟨p, e, rfl⟩ | ⟨d, e, hnext, hdec⟩ |
    ⟨d, e, -, rfl⟩ | ⟨seg, newLeft, e, rfl⟩ | ⟨newLeft, e, rfl⟩
  · exact absurd hidle hop
  · exact stepsLeft_takeTransaction e
  · simp [stepsLeft, e]
  · simp [stepsLeft, e]
  · have htag : stepsLeft s = s.leftover.length + c.length + 5 := by
      simp only [stepsLeft, e]
    exact htag ▸ Nat.lt_succ_of_le (stepsLeft_applyTag _ c s)
  · exact stepsLeft_applyHdr e
  · exact stepsLeft_decStep e hnext hdec
  · exact stepsLeft_interleave e
  · simp [stepsLeft, e]
  · simp [stepsLeft, e]

/-! ## The answers of the decode engine -/

theorem beginProcess_decAnswers (c : List Byte) (s : State) : (beginProcess c s).decAnswers = s.decAnswers := by
  rcases beginProcess_cases c s with ⟨-, e⟩ | ⟨-, e⟩ <;> simp [e]

theorem skipTag_decAnswers (r : Nat) (c : List Byte) (s : State) : (skipTag r c s).decAnswers = s.decAnswers := by
  rcases skipTag_cases r c s with ⟨-, e⟩ | ⟨-, e⟩ <;> rw [e]
  exact beginProcess_decAnswers (c.drop r) { s with tagRemain := 0#29, phase := .demux }

theorem applyTag_decAnswers (r : Except FaultCode Nat) (c : List Byte) (s : State) :
    (applyTag r c s).decAnswers = s.decAnswers := by
  cases r with
  | error code => rfl
  | ok len => exact skipTag_decAnswers len c { s with tagLen := BitVec.ofNat 29 len }

theorem takeTransaction_decAnswers (txn : Txn) (s : State) : (takeTransaction txn s).decAnswers = s.decAnswers := by
  rcases takeTransaction_cases txn s with ⟨-, e⟩ | ⟨code, -, e⟩ | ⟨-, e⟩ | ⟨data, -, -, -, e⟩ | ⟨data, -, -, -, e⟩ |
    ⟨data, -, -, -, e⟩ <;> rw [e]
  · rfl
  · rfl
  · exact skipTag_decAnswers _ _ s
  · exact beginProcess_decAnswers _ s

/-- A DEC call takes the engine's next answer (R168). -/
theorem decStep_decAnswers {d : Dispatching} {s t : State} (h : decStep d s = .next t) : t.decAnswers = s.decAnswers.tail := by
  rcases decStep_next h with ⟨k, -, rfl⟩ | ⟨-, rfl⟩
  · rcases acceptSamples_cases k d (dropAnswer (emit (.dec (nextCall d s)) s)) with ⟨-, e⟩ | ⟨-, e⟩ <;> rw [e] <;> rfl
  · rfl

theorem interleave_decAnswers (d : Dispatching) (s : State) : (interleave d s).decAnswers = s.decAnswers := by
  rcases interleave_cases d s with ⟨-, e⟩ | ⟨-, e⟩ <;> simp [e]

/-- A small step leaves the answers the engine will give, or takes the first of them. -/
theorem advance_decAnswers {s t : State} (h : advance s = .next t) : t.decAnswers <:+ s.decAnswers := by
  rcases advance_next h with ⟨-, rfl⟩ | ⟨txn, -, rfl⟩ | ⟨-, rfl⟩ | ⟨-, rfl⟩ | ⟨c, -, rfl⟩ | ⟨p, -, rfl⟩ | ⟨d, -, -, hdec⟩ |
    ⟨d, -, -, rfl⟩ | ⟨seg, newLeft, -, rfl⟩ | ⟨newLeft, -, rfl⟩
  · exact List.suffix_rfl
  · rw [takeTransaction_decAnswers]
  · exact List.suffix_rfl
  · exact List.suffix_rfl
  · rw [applyTag_decAnswers]
  · cases hdrParse p.buf p.off <;> exact List.suffix_rfl
  · exact decStep_decAnswers hdec ▸ List.tail_suffix _
  · rw [interleave_decAnswers]
  · exact List.suffix_rfl
  · exact List.suffix_rfl

theorem advance_engineSpecified {s t : State} (hs : engineSpecified s) (h : advance s = .next t) : engineSpecified t :=
  fun a ha => hs a ((advance_decAnswers h).mem ha)

/-! ## To the end -/

/-- As many small steps as are left run an operation to its end. -/
theorem drive_ends {n : Nat} {s : State} (hs : engineSpecified s) (hn : stepsLeft s ≤ n) :
    ∃ t, drive n s = .next t ∧ t.op = .idle := by
  induction n generalizing s with
  | zero =>
    refine ⟨s, rfl, by_contra fun hop => ?_⟩
    obtain ⟨t, ht⟩ := advance_answers hs
    have := advance_stepsLeft hop ht
    omega
  | succ n ih =>
    by_cases hop : s.op = .idle
    · exact ⟨s, drive_idle _ hop, hop⟩
    · obtain ⟨t, ht⟩ := advance_answers hs
      have hless := advance_stepsLeft hop ht
      rw [drive_succ n hop ht]
      exact ih (advance_engineSpecified hs ht) (by omega)

/-- The fuel of a transaction is enough for its small steps. -/
theorem stepsLeft_le_driveFuel (txn : Txn) (s : State) : stepsLeft { s with op := .received txn } ≤ driveFuel txn s := by
  cases txn <;> simp only [stepsLeft, driveFuel] <;> omega

/-- Every transaction between transactions runs to its end (R58). -/
theorem runTransaction_ends (txn : Txn) {s : State} (hop : s.op = .idle) (hs : engineSpecified s) :
    ∃ t, runTransaction txn s = .next t ∧ t.op = .idle := by
  by_cases hphase : s.phase = .faulted
  · exact ⟨s, runTransaction_faulted hphase, hop⟩
  · rw [runTransaction, if_neg hphase]
    exact drive_ends hs (stepsLeft_le_driveFuel txn s)

/-- Settles O38: a CHUNK between transactions is a transaction, and the small steps of every transaction end within its fuel. -/
theorem chunkRunsToItsEnd : Obligations.ChunkRunsToItsEnd := by
  intro s c hop hs
  rw [show exec (.chunk c) s = runTransaction (.chunk c) s from betweenTransactions_idle hop _]
  exact runTransaction_ends (.chunk c) hop hs

end Sys2Proof.Machine

/-! SUPPORT. Decoding the encoded form of an instruction, format by format, and encoding what the header decoder reads (R70, R71, R78,
R81, R86). -/

namespace Sys2Proof.Machine

/-! ## The header rows -/

/-- The bytes of a word decode to the row of the word (R70). -/
theorem decode_bytesOf32 (w : Word32) : decode (.hdr (bytesOf32 w)) = .ok (decodeHdr w) :=
  congrArg (fun h => Except.ok (decodeHdr h)) (be32_bytesOf32 w)

/-- The row of a word with the sync byte and MPEG-1 Layer III is chosen by its two indices, and holds its fields (R74, R75, R140). -/
theorem decodeHdr_layer3Word (prot : BitVec 1) (bi : BitVec 4) (si : BitVec 2) (pad priv : BitVec 1) (b3 : Byte) :
    decodeHdr (layer3Word prot bi si pad priv b3) =
      if bi = 0#4 then .hdrBadBitrate0 prot si pad priv b3
      else if bi = 15#4 then .hdrBadBitrate15 prot si pad priv b3
      else if si = 3#2 then .hdrBadSampleRate prot bi pad priv b3
      else .hdrFrameL3 prot bi si pad priv b3 := by
  rw [show layer3Word prot bi si pad priv b3 = fieldsWord 0x7FFD#15 prot bi si pad priv b3 from rfl]
  obtain ⟨hrate0, hrate15, hsample, hlayer⟩ := rowMatches_layer3 0x7FFD#15 prot bi si pad priv b3
  obtain ⟨-, hprot, hbi, hsi, hpad, hpriv, hb3⟩ := fieldsWord_fields 0x7FFD#15 prot bi si pad priv b3
  simp only [decodeHdr, hrate0, hrate15, hsample, hlayer, hprot, hbi, hsi, hpad, hpriv, hb3, true_and, if_true]

theorem recognizedBitrate_iff {bi : BitVec 4} : recognizedBitrate bi = true ↔ bi ≠ 0#4 ∧ bi ≠ 15#4 := by
  simp [recognizedBitrate]

theorem recognizedSampleRate_iff {si : BitVec 2} : recognizedSampleRate si = true ↔ si ≠ 3#2 := by
  simp [recognizedSampleRate]

/-- The sync byte and a byte 1 that is not MPEG-1 Layer III are HDR_BAD_VERSION_LAYER (R142). -/
theorem decodeHdr_badVersionLayer {b1 : Byte} (h : b1 &&& Config.vlMask ≠ Config.vlMatch) (b2 b3 : Byte) :
    decodeHdr (be32 Config.syncByte b1 b2 b3) = .hdrBadVersionLayer b1 b2 b3 := by
  have hlayer3 : ¬ IsLayer3 Config.syncByte b1 := fun hl => h hl.2
  simpa [hlayer3, h] using decodeHdr_be32 Config.syncByte b1 b2 b3

/-- A byte 0 other than the sync byte is HDR_NOSYNC (R141). -/
theorem decodeHdr_nosync {b0 : Byte} (h : b0 ≠ Config.syncByte) (b1 b2 b3 : Byte) :
    decodeHdr (be32 b0 b1 b2 b3) = .hdrNosync b0 b1 b2 b3 := by
  have hlayer3 : ¬ IsLayer3 b0 b1 := fun hl => h hl.1
  simpa [hlayer3, h] using decodeHdr_be32 b0 b1 b2 b3

/-! ## The tag rows -/

/-- The bytes after the magic decode to the tail they encode (R78). -/
theorem decodeTagTail_bytes {tail : TagTail} (h : (Instr.tagPresent tail).wellFormed = true) : decodeTagTail tail.bytes = tail := by
  cases tail with
  | full => rfl
  | short bytes => exact decodeTagTail_short (of_decide_eq_true h)

/-- A first chunk that is the magic and a tail is TAG_PRESENT (R79). -/
theorem decodeTag_magic {tail : TagTail} (h : (Instr.tagPresent tail).wellFormed = true) :
    decodeTag (Config.id3Magic ++ tail.bytes) = .ok (.tagPresent tail) := by
  have hne : Config.id3Magic ++ tail.bytes ≠ [] := List.cons_ne_nil _ _
  have htake : (Config.id3Magic ++ tail.bytes).take 3 = Config.id3Magic := rfl
  have hdrop : (Config.id3Magic ++ tail.bytes).drop 3 = tail.bytes := rfl
  rw [decodeTag, if_neg hne, if_pos htake, hdrop, decodeTagTail_bytes h]

/-- One to three head bytes that are not the magic are TAG_ABSENT with all of them (R101). -/
theorem decodeTag_head {head : List Byte} (h : (Instr.tagAbsent head).wellFormed = true) :
    decodeTag head = .ok (.tagAbsent head) := by
  simp only [Instr.wellFormed, Bool.and_eq_true, decide_eq_true_eq, bne_iff_ne] at h
  obtain ⟨⟨hpos, hlen⟩, hmagic⟩ := h
  rw [decodeTag, if_neg (List.length_pos_iff.1 hpos), List.take_of_length_le hlen, if_neg hmagic]

/-! ## The transactions -/

/-- A CHUNK whose length fits its length field decodes to its data, and the bytes behind them stay (R81). -/
theorem decodeChunk_bytesOf32 {data : List Byte} (h : data.length < 2 ^ 32) (rest : List Byte) :
    decodeChunk (bytesOf32 (BitVec.ofNat 32 data.length) ++ (data ++ rest)) = .ok (.chunk data, rest) := by
  have hlen : (BitVec.ofNat 32 data.length).toNat = data.length := by
    rw [BitVec.toNat_ofNat, Nat.mod_eq_of_lt h]
  simp only [bytesOf32, List.cons_append, List.nil_append, decodeChunk, be32_bytesOf32, hlen, List.length_append,
    Nat.le_add_right, if_true, List.take_left, List.drop_left]

/-- A tag byte that is neither CHUNK's nor EOS's is an illegal transaction by itself (R82). -/
theorem decodeTxn_illegal {tag : Byte} (hchunk : tag ≠ Config.chunkTag) (heos : tag ≠ Config.eosTag) (rest : List Byte) :
    decodeTxn (tag :: rest) = .ok (.txnIllegal tag, rest) := by
  simp only [decodeTxn, if_neg hchunk, if_neg heos]

/-! ## The round trips -/

/-- Settles O57: row by row, the tests that come before the row's own fail on its encoding and its fields are read back. -/
theorem encodeDecodeRoundTrip : Obligations.EncodeDecodeRoundTrip := by
  intro i h
  cases i with
  | hdrBadBitrate0 prot si pad priv b3 => exact (decode_bytesOf32 _).trans (by rw [decodeHdr_layer3Word, if_pos rfl])
  | hdrBadBitrate15 prot si pad priv b3 =>
    exact (decode_bytesOf32 _).trans (by rw [decodeHdr_layer3Word, if_neg (by decide), if_pos rfl])
  | hdrBadSampleRate prot bi pad priv b3 =>
    obtain ⟨h0, h15⟩ := recognizedBitrate_iff.1 h
    exact (decode_bytesOf32 _).trans (by rw [decodeHdr_layer3Word, if_neg h0, if_neg h15, if_pos rfl])
  | hdrFrameL3 prot bi si pad priv b3 =>
    obtain ⟨hbi, hsi⟩ := Bool.and_eq_true_iff.1 h
    obtain ⟨h0, h15⟩ := recognizedBitrate_iff.1 hbi
    exact (decode_bytesOf32 _).trans
      (by rw [decodeHdr_layer3Word, if_neg h0, if_neg h15, if_neg (recognizedSampleRate_iff.1 hsi)])
  | hdrBadVersionLayer b1 b2 b3 => exact congrArg Except.ok (decodeHdr_badVersionLayer (bne_iff_ne.1 h) b2 b3)
  | hdrNosync b0 b1 b2 b3 => exact congrArg Except.ok (decodeHdr_nosync (bne_iff_ne.1 h) b1 b2 b3)
  | tagPresent tail => exact decodeTag_magic h
  | tagAbsent head => exact decodeTag_head h
  | chunk data =>
    have hchunk := decodeChunk_bytesOf32 (of_decide_eq_true h) []
    rw [List.append_nil] at hchunk
    exact congrArg (Except.map Prod.fst) hchunk
  | eos => rfl
  | txnIllegal tag =>
    obtain ⟨hchunk, heos⟩ := Bool.and_eq_true_iff.1 h
    exact congrArg (Except.map Prod.fst) (decodeTxn_illegal (bne_iff_ne.1 hchunk) (bne_iff_ne.1 heos) [])
  | rd32 a => rfl
  | wr32 a v => rfl
  | reset => rfl

/-- The word of a layer-III row, in bytes, is the four bytes its fields came from (R71). -/
theorem bytesOf32_layer3Word {b0 b1 : Byte} (h : IsLayer3 b0 b1) (b2 b3 : Byte) :
    bytesOf32 (layer3Word (b1.extractLsb' 0 1) (b2.extractLsb' 4 4) (b2.extractLsb' 2 2) (b2.extractLsb' 1 1)
      (b2.extractLsb' 0 1) b3) = [b0, b1, b2, b3] := by
  rw [layer3Word_eq_be32 h, bytesOf32_be32]

/-- Settles O58: each of the six rows the decoder can give holds all the fields of the four bytes, and the tests it was chosen by are
its well-formedness. -/
theorem headerBytesRoundTrip : Obligations.HeaderBytesRoundTrip := by
  intro b0 b1 b2 b3
  rcases decodeHdr_be32 b0 b1 b2 b3 with ⟨hl, hbi, e⟩ | ⟨hl, hbi, e⟩ | ⟨hl, h0, h15, hsi, e⟩ | ⟨hl, h0, h15, hsi, e⟩ |
    ⟨h0, h1, e⟩ | ⟨h0, e⟩ <;> rw [e]
  · exact ⟨congrArg Encoded.hdr (hbi ▸ bytesOf32_layer3Word hl b2 b3), rfl⟩
  · exact ⟨congrArg Encoded.hdr (hbi ▸ bytesOf32_layer3Word hl b2 b3), rfl⟩
  · exact ⟨congrArg Encoded.hdr (hsi ▸ bytesOf32_layer3Word hl b2 b3), recognizedBitrate_iff.2 ⟨h0, h15⟩⟩
  · exact ⟨congrArg Encoded.hdr (bytesOf32_layer3Word hl b2 b3),
      Bool.and_eq_true_iff.2 ⟨recognizedBitrate_iff.2 ⟨h0, h15⟩, recognizedSampleRate_iff.2 hsi⟩⟩
  · exact ⟨by rw [h0]; rfl, bne_iff_ne.2 h1⟩
  · exact ⟨rfl, bne_iff_ne.2 h0⟩

/-- Settles O59: the decoder evaluated on each of the six words. -/
theorem sampleWordsDecode : Obligations.SampleWordsDecode := by
  refine ⟨?_, ?_, ?_, ?_, ?_, ?_⟩ <;> decide

end Sys2Proof.Machine

/-! SUPPORT. The instruction a step decodes is the one it executes: what is next at a scan, at an ID3v2 check, at a waiting transaction
and at the host's line, and the words of the opcode table placed there (R58, R81, R83, R86). -/

namespace Sys2Proof.Machine

/-! ## The header rows at a scan -/

/-- Settles O27: the row the masks select does what HDRPARSE does. -/
theorem headerRowsAgreeWithParser : Obligations.HeaderRowsAgreeWithParser :=
  fun _ _ _ hop hword => exec_decodeHdr hop hword

/-- Fault entry at an offset that fits FAULT_OFF, written out (R222). -/
theorem raise_eq {off : Nat} (hoff : off < 2 ^ 32) (code : FaultCode) (h : Word32) (s : State) :
    raise code off h s =
      { s with
        faultCode := faultCodeBits code, faultCat := faultCategory code, faultOff := BitVec.ofNat 32 off, faultHdr := h
        phase := .faulted, op := .idle, log := .out (.fail (faultCodeBits code)) :: s.log } := by
  rw [← faultOffBits_of_lt hoff]
  rfl

/-- Settles O22: each of the four rows is the fault entry of its code at the scan offset. -/
theorem reservedHeaderFaults : Obligations.ReservedHeaderFaults := by
  intro s p prot bi si pad priv b1 b2 b3 hop hoff
  have hraise : ∀ code h, onScan s (fun p => enterFault code p.off h s) = .next (raise code p.off h s) := fun code h => by
    rw [onScan_scan hop, finishFault_enterFault]
  simp only [raise_eq hoff] at hraise
  exact ⟨hraise _ _, hraise _ _, hraise _ _, hraise _ _⟩

/-! ## What is selected is run -/

/-- With no reset input to come, the step is the selected instruction, on the state past its words (R58). -/
theorem step_of_select_run {s s' : State} {i : Instr} (hresets : s.resets = []) (h : select s = .run i s') :
    step s = exec i s' := by
  simp only [step, sequenceStep, hresets, quietStep, perform, h]

theorem select_scan {s : State} {p : Scan} {h : Word32} (hop : s.op = .scan p) (hword : hdrAt p.buf p.off = some h) :
    select s = .run (decodeHdr h) s := by
  simp only [select, hop, hword]

theorem select_tagCheck {s : State} {c : List Byte} {i : Instr} (hop : s.op = .tagCheck c) (hi : decodeTag c = .ok i) :
    select s = .run i s := by
  simp only [select, hop, hi]

theorem select_transaction {s : State} {i : Instr} {rest : List Byte} (hop : s.op = .idle) (hphase : s.phase ≠ .faulted)
    (hi : decodeTxn s.rx = .ok (i, rest)) : select s = .run i { s with rx := rest } := by
  simp only [select, hop, selectIdle, if_neg hphase, hi]

/-- The host is served between transactions when no whole transaction waits, and in FAULTED (R58, R208). -/
theorem select_host {s : State} (hop : s.op = .idle) (h : s.phase = .faulted ∨ ∃ e, decodeTxn s.rx = .error e) :
    select s = selectHost s := by
  by_cases hphase : s.phase = .faulted
  · exact select_faulted hop hphase
  · obtain ⟨e, he⟩ := h.resolve_left hphase
    simp only [select, hop, selectIdle, if_neg hphase, he]

theorem selectHost_access {s : State} {op : HostOp} {rest : List HostOp} {i : Instr} (hline : s.host = op :: rest)
    (hi : decodeAccess op = .ok i) : selectHost s = .run i { s with host := rest } := by
  cases op with
  | send bytes => cases hi
  | read bits a => simp only [selectHost, hline, hi]
  | write bits a v => simp only [selectHost, hline, hi]
  | reset => simp only [selectHost, hline, hi]

/-- Settles O52: at each of the four points the decoded instruction is the one selected. -/
theorem stepRunsDecodedInstruction : Obligations.StepRunsDecodedInstruction := by
  intro s hresets
  refine ⟨fun p h hop hword => ?_, fun c i hop hi => ?_, fun i rest hop hphase hi => ?_, fun op i rest hop hserved hline hi => ?_⟩
  · exact step_of_select_run hresets (select_scan hop hword)
  · exact step_of_select_run hresets (select_tagCheck hop hi)
  · exact step_of_select_run hresets (select_transaction hop hphase hi)
  · exact step_of_select_run hresets ((select_host hop hserved).trans (selectHost_access hline hi))

/-! ## Placed words -/

/-- The header at offset 0 of a word's bytes is the word. -/
theorem hdrAt_bytesOf32 (w : Word32) : hdrAt (bytesOf32 w) 0 = some w :=
  congrArg some (be32_bytesOf32 w)

theorem toOption_eq_some {α : Type} {r : Except DecodeError α} {a : α} (h : r.toOption = some a) : r = .ok a := by
  cases r with
  | error e => cases h
  | ok b => exact congrArg Except.ok (Option.some.inj h)

/-- A word of a 32-bit row decodes to its header row. -/
theorem decodeTableWord_hdr {w : Nat} {i : Instr} (h : decodeTableWord 32 w = some i) : decodeHdr (BitVec.ofNat 32 w) = i :=
  Except.ok.inj ((decode_bytesOf32 _).symm.trans (toOption_eq_some h))

/-- A word of an 8-bit row decodes to a transaction that takes all its bytes. -/
theorem decodeTableWord_txn {w : Nat} {i : Instr} (h : decodeTableWord 8 w = some i) : decodeTxn (tableBytes 8 w) = .ok (i, []) := by
  have hi : (decodeTxn (tableBytes 8 w)).map Prod.fst = .ok i := toOption_eq_some h
  have hall : ∃ j, decodeTxn (tableBytes 8 w) = .ok (j, []) := by
    rw [show tableBytes 8 w = if BitVec.ofNat 8 w = Config.chunkTag then [Config.chunkTag, 0#8, 0#8, 0#8, 0#8]
      else [BitVec.ofNat 8 w] from rfl]
    split
    · exact ⟨.chunk [], rfl⟩
    · rename_i hchunk
      by_cases heos : BitVec.ofNat 8 w = Config.eosTag
      · exact ⟨.eos, by rw [heos]; rfl⟩
      · exact ⟨_, decodeTxn_illegal hchunk heos []⟩
  obtain ⟨j, hj⟩ := hall
  rw [hj] at hi
  obtain rfl : j = i := Except.ok.inj hi
  exact hj

/-- A transaction is never placed in FAULTED, where none is taken (R208). -/
theorem withFetchWord_txn_phase (s : State) (w : Nat) : (s.withFetchWord 8 w).phase ≠ .faulted := by
  rw [show (s.withFetchWord 8 w).phase = if s.phase = .faulted then .tagHead else s.phase from rfl]
  split
  · exact Phase.noConfusion
  · assumption

/-- Settles O53: the placed word stands where the step decodes it, and is decoded there as the opcode table has it. -/
theorem placedWordIsRun : Obligations.PlacedWordIsRun := by
  intro s w i
  refine ⟨fun h => ?_, fun h => ?_, fun h => ?_⟩
  · rw [← decodeTableWord_hdr h]
    exact step_of_select_run rfl (select_scan rfl (hdrAt_bytesOf32 _))
  · exact step_of_select_run rfl (select_tagCheck rfl (toOption_eq_some h))
  · exact step_of_select_run rfl (select_transaction rfl (withFetchWord_txn_phase s w) (decodeTableWord_txn h))

end Sys2Proof.Machine

/-! SUPPORT. The ID3v2 check of the first chunk: the synchsafe size, what ID3LEN reads, what the measured tag leaves of the chunk, and the
tag rows with their operands (R100 to R105). -/

namespace Sys2Proof.Machine

open Sys2Proof.Spec

/-! ## ID3LEN -/

/-- The synchsafe size is the base-128 number of the low 7 bits of its bytes (R100). -/
theorem synchsafe28_toNat (s0 s1 s2 s3 : Byte) :
    (synchsafe28 s0 s1 s2 s3).toNat =
      s0.toNat % 128 * 2 ^ 21 + s1.toNat % 128 * 2 ^ 14 + s2.toNat % 128 * 2 ^ 7 + s3.toNat % 128 := by
  have hlow : ∀ b : Byte, (b.extractLsb' 0 7).toNat = b.toNat % 128 := fun b => by
    rw [BitVec.extractLsb'_toNat, Nat.shiftRight_zero]
  simp only [synchsafe28, toNat_append_eq, hlow]
  omega

/-- Settles O29: the value from the concatenation of the four 7-bit fields, the bound from its 28 bits. -/
theorem synchsafeValue : Obligations.SynchsafeValue := fun s0 s1 s2 s3 =>
  ⟨synchsafe28_toNat s0 s1 s2 s3, Nat.le_of_lt_succ (synchsafe28 s0 s1 s2 s3).isLt⟩

/-- The size field ends with the 10-byte header (R78). -/
theorem tagBodySize_take (c : List Byte) : tagBodySize (c.take Config.id3HdrLen) = tagBodySize c := by
  have hbyte : ∀ i < Config.id3HdrLen, (c.take Config.id3HdrLen).getD i 0#8 = c.getD i 0#8 := fun i hi => by
    rw [List.getD_eq_getElem?_getD, List.getElem?_take_of_lt hi, List.getD_eq_getElem?_getD]
  simp (disch := decide) only [tagBodySize, hbyte]

/-- ID3LEN does not read the body behind the 10-byte header (R102). -/
theorem id3Len_take (c : List Byte) : id3Len (c.take Config.id3HdrLen) = id3Len c := by
  rcases le_or_gt c.length Config.id3HdrLen with hshort | hlong
  · rw [List.take_of_length_le hshort]
  · have hlen : (c.take Config.id3HdrLen).length = Config.id3HdrLen := List.length_take_of_le hlong.le
    have hthree : 3 < Config.id3HdrLen := by decide
    have hhead : (c.take Config.id3HdrLen).take 3 = c.take 3 := by rw [List.take_take, min_eq_left hthree.le]
    by_cases hmagic : c.take 3 = Config.id3Magic
    · rw [id3Len_of_magic (hhead.trans hmagic), id3Len_of_magic hmagic, hlen, if_neg (lt_irrefl _), if_neg hlong.not_gt,
        tagBodySize_take]
    · rw [id3Len_of_not_magic (hhead ▸ hmagic), id3Len_of_not_magic hmagic, hlen, if_neg fun h => hthree.not_gt h.1,
        if_neg fun h => (hthree.trans hlong).not_gt h.1]

/-- A chunk that begins with the magic measures at least its 10-byte header (R101). -/
theorem id3Len_ge_of_magic {c : List Byte} {r : Nat} (hmagic : c.take 3 = Config.id3Magic) (h : id3Len c = .ok r) :
    Config.id3HdrLen ≤ r := by
  rw [id3Len_of_magic hmagic] at h
  split at h <;> cases h
  exact Nat.le_add_left _ _

/-- A chunk that does not begin with the magic measures 0 (R101). -/
theorem id3Len_eq_zero_of_not_magic {c : List Byte} {r : Nat} (hmagic : c.take 3 ≠ Config.id3Magic) (h : id3Len c = .ok r) :
    r = 0 := by
  rw [id3Len_of_not_magic hmagic] at h
  split at h <;> cases h
  rfl

/-- Settles O30: the magic decides between 0 and at least 10, and two chunks with the same first 10 bytes are measured by them. -/
theorem tagLengthRange : Obligations.TagLengthRange := by
  refine ⟨fun c r h => ?_, fun c c' h => ?_⟩
  · obtain ⟨hfits, hrange⟩ := id3Len_fits h
    exact ⟨fun hmagic => id3Len_eq_zero_of_not_magic hmagic h, fun hmagic => id3Len_ge_of_magic hmagic h, by omega, hfits⟩
  · rw [← id3Len_take c, ← id3Len_take c']
    exact congrArg id3Len h

/-! ## The rest of TAGSKIP -/

/-- A fault without an offset and a header word, written out (R222). -/
theorem raise_eq_faultedWith (code : FaultCode) (s : State) :
    raise code 0 0#32 s = faultedWith (faultCodeBits code) (faultCategory code) { s with op := .idle } := rfl

theorem beginProcess_fits {c : List Byte} {s : State}
    (h : overCapacity s.params.wbufCap (s.leftover.length + c.length) = false) :
    beginProcess c s = { s with sampleCursor := 0#32, op := .scan { buf := s.leftover ++ c, off := 0, sizes := [] } } :=
  if_neg (ne_true_of_eq_false h)

theorem beginProcess_overflows {c : List Byte} {s : State}
    (h : overCapacity s.params.wbufCap (s.leftover.length + c.length) = true) :
    beginProcess c s = enterFault .bufferOverflow 0 0#32 s :=
  if_pos h

section
variable {r : Nat} {c : List Byte} {s : State}

/-- A chunk wholly inside the tag (R103). -/
theorem finishFault_measuredTag_inside (h : c.length ≤ r) :
    finishFault (measuredTag r c s) =
      { s with
        tagLen := BitVec.ofNat 29 r, tagRemain := BitVec.ofNat 29 (r - c.length), phase := .tagSkip, op := .idle } := by
  rw [measuredTag, skipTag, if_neg h.not_gt]
  exact finishFault_of_ne Op.noConfusion

/-- A tag that ends in the chunk, the excess of which fits the working buffer (R103, R162). -/
theorem finishFault_measuredTag_excess (h : r < c.length)
    (hcap : overCapacity s.params.wbufCap (s.leftover.length + (c.length - r)) = false) :
    finishFault (measuredTag r c s) =
      { s with
        tagLen := BitVec.ofNat 29 r, tagRemain := 0#29, phase := .demux, sampleCursor := 0#32
        op := .scan { buf := s.leftover ++ c.drop r, off := 0, sizes := [] } } := by
  rw [measuredTag, skipTag, if_pos h, beginProcess_fits]
  · exact finishFault_of_ne Op.noConfusion
  · rwa [List.length_drop]

/-- A tag that ends in the chunk, the excess of which does not fit: TAG_LEN and TAG_REMAIN are written before the fault (R104, R161). -/
theorem finishFault_measuredTag_overflow (h : r < c.length)
    (hcap : overCapacity s.params.wbufCap (s.leftover.length + (c.length - r)) = true) :
    finishFault (measuredTag r c s) =
      faultedWith 0x08#8 4#4 { s with tagLen := BitVec.ofNat 29 r, tagRemain := 0#29, op := .idle } := by
  rw [measuredTag, skipTag, if_pos h, beginProcess_overflows, finishFault_enterFault]
  · exact raise_eq_faultedWith .bufferOverflow _
  · rwa [List.length_drop]

end

/-! ## The tag rows with their operands -/

/-- Settles O31: the tag row the decoder reads is the ID3v2 check on the same bytes. -/
theorem tagRowsAgreeWithId3Len : Obligations.TagRowsAgreeWithId3Len :=
  fun _ _ _ hop hi => exec_decodeTag hop hi

/-- TAG_PRESENT with all its bytes measures S + 10, S from the size bytes alone (R101, R105). -/
theorem exec_tagPresent_full {s : State} {c : List Byte} (hop : s.op = .tagCheck c)
    (major revision flags s0 s1 s2 s3 : Byte) :
    exec (.tagPresent (.full major revision flags s0 s1 s2 s3)) s =
      .next (finishFault (measuredTag ((synchsafe28 s0 s1 s2 s3).toNat + 10) c s)) :=
  onTagCheck_tagCheck hop _

/-- Settles O32: the measured length against the length of the chunk, and the excess against WBUF_CAP. -/
theorem tagPresentMeasures : Obligations.TagPresentMeasures := by
  intro s c major revision flags s0 s1 s2 s3 hop r
  have hexec := exec_tagPresent_full hop major revision flags s0 s1 s2 s3
  rw [synchsafe28_toNat] at hexec
  rw [hexec]
  exact ⟨fun h => congrArg _ (finishFault_measuredTag_inside h), fun h hcap => congrArg _ (finishFault_measuredTag_excess h hcap),
    fun h hcap => congrArg _ (finishFault_measuredTag_overflow h hcap)⟩

/-- The beginnings of the magic that are too short to decide (R101). -/
theorem beginsMagic_iff {head : List Byte} :
    (head.length < 3 ∧ head = Config.id3Magic.take head.length) ↔ head = [] ∨ head = [0x49#8] ∨ head = [0x49#8, 0x44#8] := by
  match head with
  | [] => simp
  | [_] => simp [Config.id3Magic]
  | [_, _] => simp [Config.id3Magic]
  | _ :: _ :: _ :: _ => simp

/-- TAG_ABSENT with head bytes that decide measures 0 (R101). -/
theorem exec_tagAbsent_decided {s : State} {c head : List Byte} (hop : s.op = .tagCheck c)
    (hhead : ¬ (head.length < 3 ∧ head = Config.id3Magic.take head.length)) :
    exec (.tagAbsent head) s = .next (finishFault (measuredTag 0 c s)) :=
  (onTagCheck_tagCheck hop _).trans (by rw [if_neg hhead])

/-- Settles O34: a tag of length 0 ends before the first byte of the chunk, so the excess is the chunk. -/
theorem tagAbsentMeasuresZero : Obligations.TagAbsentMeasuresZero := by
  intro s c head hop hc hI hID hempty
  have hhead : ¬ (head.length < 3 ∧ head = Config.id3Magic.take head.length) := by
    rw [beginsMagic_iff]
    tauto
  have hpos : 0 < c.length := List.length_pos_iff.2 hc
  rw [exec_tagAbsent_decided hop hhead]
  exact ⟨fun hcap => congrArg _ (finishFault_measuredTag_excess hpos hcap),
    fun hcap => congrArg _ (finishFault_measuredTag_overflow hpos hcap)⟩

/-- Settles O33: the three forms of the operands raise the fault with nothing written before it. -/
theorem shortTagHeaderFaults : Obligations.ShortTagHeaderFaults := by
  intro s c bytes hop
  have hraise : finishFault (enterFault .shortTagHeader 0 0#32 s) = faultedWith 0x09#8 4#4 { s with op := .idle } :=
    raise_eq_faultedWith .shortTagHeader s
  rw [← hraise]
  exact ⟨onTagCheck_tagCheck hop _, onTagCheck_tagCheck hop _, onTagCheck_tagCheck hop _⟩

end Sys2Proof.Machine

/-! SUPPORT. The frame-size lookup: FSIZE in closed form where both indices are recognised, its table, the padding bit and the range of
its sizes, and the frame that HDR_FRAME_L3 records (R120 to R125, R163). -/

namespace Sys2Proof.Machine

/-! ## FSIZE at the recognised indices -/

theorem bitrateKbps_of_getElem? {bi : BitVec 4} {kbps : Nat} (h : Config.bitrateKbps[bi.toNat]? = some (some kbps)) :
    bitrateKbps bi = some kbps := by
  rw [bitrateKbps, List.getD_eq_getElem?_getD, h, Option.getD_some]

theorem sampleRateHz_of_getElem? {si : BitVec 2} {hz : Nat} (h : Config.sampleRateHz[si.toNat]? = some (some hz)) :
    sampleRateHz si = some hz := by
  rw [sampleRateHz, List.getD_eq_getElem?_getD, h, Option.getD_some]

/-- FSIZE answers where both indices are recognised, and there the floor of the formula plus the padding bit (R122). -/
theorem fsize_eq_ok_iff {bi : BitVec 4} {si : BitVec 2} {p : BitVec 1} {z : Nat} :
    fsize bi si p = .ok z ↔
      ∃ kbps hz, bitrateKbps bi = some kbps ∧ sampleRateHz si = some hz ∧ 144 * (1000 * kbps) / hz + p.toNat = z := by
  cases hk : bitrateKbps bi with
  | none => simp [fsize, hk]
  | some kbps =>
    cases hh : sampleRateHz si with
    | none => simp [fsize, hk, hh]
    | some hz => simp [fsize, hk, hh, Config.fsMult]

/-- The longest frame is that of 320 kbit/s at 32 kHz, padded (R122, R125). -/
theorem fsize_le {bi : BitVec 4} {si : BitVec 2} {p : BitVec 1} {size : Nat} (h : fsize bi si p = .ok size) : size ≤ 1441 := by
  have hrate : ∀ bi : BitVec 4, ∀ kbps ∈ bitrateKbps bi, kbps ≤ 320 := by decide
  have hsample : ∀ si : BitVec 2, ∀ hz ∈ sampleRateHz si, 32000 ≤ hz := by decide
  obtain ⟨kbps, hz, hk, hh, rfl⟩ := fsize_eq_ok_iff.1 h
  have hkbps := hrate bi kbps hk
  have hhz := hsample si hz hh
  have hframe : 144 * (1000 * kbps) / hz ≤ 1440 := Nat.div_le_of_le_mul (by omega)
  have hpad : p.toNat < 2 := p.isLt
  omega

/-- The table of R123, cell by cell: each holds what the formula gives at its indices. -/
theorem fsize_toOption_eq_frameSizeCell :
    ∀ (bi : BitVec 4) (si : BitVec 2) (p : BitVec 1), (fsize bi si p).toOption = frameSizeCell bi si p := by decide

/-! ## The obligations of the frame-size lookup -/

/-- Settles O24: the cells of the table, and the two kinds of reserved index. -/
theorem frameSizeTable : Obligations.FrameSizeTable := by
  intro bi si p
  refine ⟨fsize_toOption_eq_frameSizeCell bi si p, fun hbi => ?_, fun h0 h15 hsi => ?_⟩
  · exact ⟨_, fsize_reservedBitrate hbi si p, rfl⟩
  · subst hsi
    exact ⟨_, fsize_reservedSampleRate h0 h15 p, rfl⟩

/-- Settles O25: the padding bit is added after the floor, so the quotient is that of the unpadded frame. -/
theorem paddingAddsOneByte : Obligations.PaddingAddsOneByte := by
  intro bi si z h
  obtain ⟨kbps, hz, hk, hh, rfl⟩ := fsize_eq_ok_iff.1 h
  exact fsize_eq_ok_iff.2 ⟨kbps, hz, hk, hh, rfl⟩

/-- Settles O26: the bounds from the least and the greatest bitrate and sample rate, which the two named indices have. -/
theorem frameSizeRange : Obligations.FrameSizeRange :=
  ⟨fun _ _ _ _ h => ⟨fsize_ge h, fsize_le h⟩, fsize_eq_ok_iff.2 ⟨32, 48000, rfl, rfl, rfl⟩,
    fsize_eq_ok_iff.2 ⟨320, 32000, rfl, rfl, rfl⟩⟩

/-- Where FSIZE answers, HDR_FRAME_L3 records the frame (R140, R163). -/
theorem exec_hdrFrameL3_ok {s : State} {p : Scan} {bi : BitVec 4} {si : BitVec 2} {pad : BitVec 1} {size : Nat}
    (hop : s.op = .scan p) (hsize : fsize bi si pad = .ok size) (prot priv : BitVec 1) (b3 : Byte) :
    exec (.hdrFrameL3 prot bi si pad priv b3) s = .next (recordFrame size p s) := by
  refine (onScan_scan hop _).trans ?_
  rw [hsize]
  exact congrArg _ (finishFault_of_ne Op.noConfusion)

/-- Settles O21: the recorded size is the one FSIZE answers at the indices of the header. -/
theorem frameHeaderRecorded : Obligations.FrameHeaderRecorded := by
  intro s p prot bi si pad priv b3 kbps hz hop hk hh
  have hsize : fsize bi si pad = .ok (144 * (1000 * kbps) / hz + pad.toNat) :=
    fsize_eq_ok_iff.2 ⟨kbps, hz, bitrateKbps_of_getElem? hk, sampleRateHz_of_getElem? hh, rfl⟩
  exact exec_hdrFrameL3_ok hop hsize prot priv b3

end Sys2Proof.Machine

/-! SUPPORT. What HDRPARSE reads of a header word: two words that agree on H[31:17] and H[15:9] give one result, each fault with the word
it was raised for (R140, R143). -/

namespace Sys2Proof.Machine

/-! ## The fields HDRPARSE reads -/

/-- A field of a field is a field of the word. -/
theorem extractLsb'_extractLsb' {w start len start' len' : Nat} (x : BitVec w) (hle : start' + len' ≤ len) :
    (x.extractLsb' start len).extractLsb' start' len' = x.extractLsb' (start + start') len' := by
  ext i hi
  simp only [BitVec.getElem_extractLsb', BitVec.getLsbD_extractLsb', Nat.add_assoc, Bool.and_eq_right_iff_imp, decide_eq_true_eq]
  omega

/-- H[31:17] is byte 0 and the high seven bits of byte 1 (R71). -/
theorem be32_top (b0 b1 b2 b3 : Byte) : (be32 b0 b1 b2 b3).extractLsb' 17 15 = b0 ++ b1.extractLsb' 1 7 := by
  rw [be32_eq_fieldsWord]
  exact (fieldsWord_fields _ _ _ _ _ _ _).1

/-- Words that agree on H[31:17] begin with the same byte, and both or neither are MPEG-1 Layer III (R72, R73). -/
theorem sync_and_layer3_of_top {b0 b1 b2 b3 c0 c1 c2 c3 : Byte}
    (htop : (be32 b0 b1 b2 b3).extractLsb' 17 15 = (be32 c0 c1 c2 c3).extractLsb' 17 15) :
    b0 = c0 ∧ (IsLayer3 b0 b1 ↔ IsLayer3 c0 c1) := by
  rw [be32_top, be32_top] at htop
  refine ⟨(append_eq_append.1 htop).1, ?_⟩
  rw [IsLayer3, IsLayer3, ← layer3_top, ← layer3_top, htop]

/-- Words that agree on H[15:9] have the same arguments of FSIZE (R126). -/
theorem indices_of_fields {b0 b1 b2 b3 c0 c1 c2 c3 : Byte}
    (hfields : (be32 b0 b1 b2 b3).extractLsb' 9 7 = (be32 c0 c1 c2 c3).extractLsb' 9 7) :
    b2.extractLsb' 4 4 = c2.extractLsb' 4 4 ∧ b2.extractLsb' 2 2 = c2.extractLsb' 2 2 ∧
      b2.extractLsb' 1 1 = c2.extractLsb' 1 1 := by
  have hpart : ∀ start len : Nat, start + len ≤ 7 →
      (be32 b0 b1 b2 b3).extractLsb' (9 + start) len = (be32 c0 c1 c2 c3).extractLsb' (9 + start) len := fun start len hle => by
    rw [← extractLsb'_extractLsb' _ hle, hfields, extractLsb'_extractLsb' _ hle]
  obtain ⟨hbi, hsi, hpad⟩ := be32_indices b0 b1 b2 b3
  obtain ⟨hbi', hsi', hpad'⟩ := be32_indices c0 c1 c2 c3
  rw [← hbi, ← hsi, ← hpad, ← hbi', ← hsi', ← hpad']
  exact ⟨hpart 3 4 (by decide), hpart 1 2 (by decide), hpart 0 1 (by decide)⟩

/-! ## One result for words that agree -/

/-- A result of HDRPARSE with the header word of a fault replaced. -/
def HdrResult.withWord (h : Word32) : HdrResult → HdrResult
  | .bad code _ => .bad code h
  | r => r

/-- Words that agree on the fields HDRPARSE reads have the same result, up to the word a fault keeps for FAULT_HDR (R143). -/
theorem hdrParse_eq_withWord {buf buf' : List Byte} {off off' : Nat} {h h' : Word32} (hword : hdrAt buf off = some h)
    (hword' : hdrAt buf' off' = some h') (htop : h.extractLsb' 17 15 = h'.extractLsb' 17 15)
    (hfields : h.extractLsb' 9 7 = h'.extractLsb' 9 7) :
    hdrParse buf' off' = (hdrParse buf off).withWord h' := by
  obtain ⟨b0, b1, b2, b3, hbytes, rfl⟩ := hdrAt_eq_some.1 hword
  obtain ⟨c0, c1, c2, c3, hbytes', rfl⟩ := hdrAt_eq_some.1 hword'
  obtain ⟨rfl, hlayer3⟩ := sync_and_layer3_of_top htop
  obtain ⟨hbi, hsi, hpad⟩ := indices_of_fields hfields
  by_cases hsync : b0 = Config.syncByte
  · by_cases hl : IsLayer3 b0 b1
    · cases hsize : fsize (b2.extractLsb' 4 4) (b2.extractLsb' 2 2) (b2.extractLsb' 1 1) with
      | error code =>
        rw [hdrParse_layer3_error hbytes hl hsize, hdrParse_layer3_error hbytes' (hlayer3.1 hl) (hbi ▸ hsi ▸ hpad ▸ hsize)]
        rfl
      | ok size =>
        rw [hdrParse_layer3_ok hbytes hl hsize, hdrParse_layer3_ok hbytes' (hlayer3.1 hl) (hbi ▸ hsi ▸ hpad ▸ hsize)]
        rfl
    · have hl' : ¬ IsLayer3 b0 c1 := mt hlayer3.2 hl
      rw [hdrParse_badVersionLayer hbytes hsync fun h1 => hl ⟨hsync, h1⟩,
        hdrParse_badVersionLayer hbytes' hsync fun h1 => hl' ⟨hsync, h1⟩]
      rfl
  · rw [hdrParse_nosync hbytes hsync, hdrParse_nosync hbytes' hsync]
    rfl

/-- Settles O28: the second result is the first one with its own word. -/
theorem ignoredHeaderBits : Obligations.IgnoredHeaderBits := by
  intro buf buf' off off' h h' hword hword' htop hfields
  rw [hdrParse_eq_withWord hword hword' htop hfields]
  exact ⟨fun _ hframe => congrArg _ hframe, fun hnosync => congrArg _ hnosync, fun _ hbad => congrArg _ hbad⟩

end Sys2Proof.Machine

/-! SUPPORT. A CHUNK in DEMUX is `PROCESS(c)` of R160: its small steps, however many of them the fuel allows, are the loops of the
pseudocode (R160 to R172, R203). -/

namespace Sys2Proof.Machine

open Sys2Proof.Spec

/-! ## The small steps to the end, without fuel -/

/-- The small steps of the operation in progress to its end. -/
def runToEnd (s : State) : Answer := drive (stepsLeft s) s

theorem stepsLeft_pos {s : State} (hop : s.op ≠ .idle) : 0 < stepsLeft s := by
  cases h : s.op with
  | idle => exact absurd h hop
  | received txn => exact zero_lt_two.trans_le (stepsLeft_received txn h)
  | failing => simp [stepsLeft, h]
  | ending => simp [stepsLeft, h]
  | tagCheck c => simp [stepsLeft, h]
  | scan p => simp [stepsLeft, h]
  | dispatch d => simp [stepsLeft, h]
  | output seg newLeft => simp [stepsLeft, h]
  | commit newLeft => simp [stepsLeft, h]

theorem drive_refused (n : Nat) {s : State} {r : Refusal} (hop : s.op ≠ .idle) (h : advance s = .refused r) :
    drive (n + 1) s = .refused r := by
  simp only [drive, if_neg hop, h]

/-- Any two amounts of fuel that are enough give the same answer. -/
theorem drive_enough {n m : Nat} {s : State} (hn : stepsLeft s ≤ n) (hm : stepsLeft s ≤ m) : drive n s = drive m s := by
  induction n generalizing m s with
  | zero =>
    have hop : s.op = .idle := by_contra fun hop => by
      have := stepsLeft_pos hop
      omega
    rw [drive_idle 0 hop, drive_idle m hop]
  | succ n ih =>
    by_cases hop : s.op = .idle
    · rw [drive_idle _ hop, drive_idle m hop]
    · obtain ⟨m, rfl⟩ : ∃ k, m = k + 1 := ⟨m - 1, by have := stepsLeft_pos hop; omega⟩
      cases h : advance s with
      | next t =>
        have hless := advance_stepsLeft hop h
        rw [drive_succ n hop h, drive_succ m hop h]
        exact ih (by omega) (by omega)
      | fault r => exact absurd h (advance_not_fault s r)
      | refused r => rw [drive_refused n hop h, drive_refused m hop h]

theorem runToEnd_idle {s : State} (hop : s.op = .idle) : runToEnd s = .next s := drive_idle _ hop

/-- One small step, then the rest. -/
theorem runToEnd_of_advance {s t : State} (hop : s.op ≠ .idle) (h : advance s = .next t) : runToEnd s = runToEnd t := by
  have hless := advance_stepsLeft hop h
  rw [runToEnd, drive_enough le_rfl (show stepsLeft s ≤ (stepsLeft s - 1) + 1 by omega), drive_succ _ hop h]
  exact drive_enough (by omega) le_rfl

theorem runToEnd_refused {s : State} {r : Refusal} (hop : s.op ≠ .idle) (h : advance s = .refused r) :
    runToEnd s = .refused r := by
  rw [runToEnd, drive_enough le_rfl (Nat.le_succ _), drive_refused _ hop h]

/-- A fault entry that has begun ends the transaction (R222). -/
theorem runToEnd_enterFault (code : FaultCode) (off : Nat) (h : Word32) (s : State) :
    runToEnd (enterFault code off h s) = .next (raise code off h s) := drive_enterFault 0 code off h s

/-- A transaction outside FAULTED is what taking it does first, run to its end (R58). -/
theorem runTransaction_eq_runToEnd (txn : Txn) {s : State} (hphase : s.phase ≠ .faulted) :
    runTransaction txn s = runToEnd (takeTransaction txn { s with op := .received txn }) := by
  rw [runTransaction, if_neg hphase, drive_enough (stepsLeft_le_driveFuel txn s) le_rfl]
  exact runToEnd_of_advance Op.noConfusion rfl

theorem withOp_idle {s : State} (hop : s.op = .idle) : { s with op := .idle } = s := by
  rw [← hop]

/-! ## The DEC loop of R160, call by call -/

/-- The state after a DEC call, its answer drawn and not acted on (R168). -/
def called (w : List Byte) (a z : Nat) (s : State) : State :=
  dropAnswer (emit (.dec { buf := w, start := a, size := z, cursor := s.sampleCursor, pcmSize := s.pcmBufferSize }) s)

/-- The state after a DEC call that the engine answered OK(k) (R168). -/
def decoded (w : List Byte) (a z k : Nat) (s : State) : State :=
  { called w a z s with
    sampleCursor := BitVec.ofNat 32 (s.sampleCursor.toNat + k)
    frameCount := s.frameCount + 1#32 }

section
variable {w : List Byte} {a z : Nat} {rest : List (Nat × Nat)} {s : State} {after : State → Answer}

theorem decLoop_ok {k : Nat} (h : nextAnswer s = .ok k) (hk : cursorOverflows s.sampleCursor k = false) :
    decLoop w ((a, z) :: rest) s after = decLoop w rest (decoded w a z k s) after := by
  rw [decLoop, h]
  exact if_neg (cursorOverflows_eq_false.1 hk).not_gt

theorem decLoop_overflow {k : Nat} (h : nextAnswer s = .ok k) (hk : cursorOverflows s.sampleCursor k = true) :
    decLoop w ((a, z) :: rest) s after = .next (raise .capacityCursor a (hdrWord w a) (called w a z s)) := by
  rw [decLoop, h]
  exact if_pos (cursorOverflows_iff.1 hk)

theorem decLoop_capacity (h : nextAnswer s = .capacity) :
    decLoop w ((a, z) :: rest) s after = .next (raise .capacityDecode a (hdrWord w a) (called w a z s)) := by
  rw [decLoop, h]
  rfl

theorem decLoop_otherOutcome (h : nextAnswer s = .otherOutcome) :
    decLoop w ((a, z) :: rest) s after = .refused .decodeOutcome := by
  rw [decLoop, h]

theorem decLoop_wroteBuffer (h : nextAnswer s = .wroteBuffer) :
    decLoop w ((a, z) :: rest) s after = .refused .decodeWroteBuffer := by
  rw [decLoop, h]

end

/-! ## The small steps of a PROCESS are its loops -/

theorem advance_call {s : State} {d : Dispatching} (hop : s.op = .dispatch d) (hnext : d.next < d.nc) :
    advance s = decStep d s := by
  simp only [advance, hop, if_pos hnext]

theorem advance_interleave {s : State} {d : Dispatching} (hop : s.op = .dispatch d) (hnext : d.nc ≤ d.next) :
    advance s = .next (interleave d s) := by
  simp only [advance, hop, if_neg hnext.not_gt]

section
variable {s : State} {d : Dispatching}

theorem decStep_ok {k : Nat} (h : nextAnswer s = .ok k) :
    decStep d s = .next (acceptSamples k d (dropAnswer (emit (.dec (nextCall d s)) s))) := by
  rw [decStep, h]

theorem decStep_capacity (h : nextAnswer s = .capacity) :
    decStep d s =
      .next (enterFault .capacityDecode (nextStart d) (hdrWord d.buf (nextStart d)) (dropAnswer (emit (.dec (nextCall d s)) s))) := by
  rw [decStep, h]

theorem decStep_otherOutcome (h : nextAnswer s = .otherOutcome) : decStep d s = .refused .decodeOutcome := by
  rw [decStep, h]

theorem decStep_wroteBuffer (h : nextAnswer s = .wroteBuffer) : decStep d s = .refused .decodeWroteBuffer := by
  rw [decStep, h]

end

/-- After the last DEC call: the interleave check, ILV, the segment and the commit (R170 to R172). -/
theorem runToEnd_interleave (d : Dispatching) (s : State) :
    runToEnd (interleave d s) = finish d.newLeft { s with op := .idle } := by
  rcases interleave_cases d s with ⟨hover, e⟩ | ⟨hfits, e⟩ <;> rw [e]
  · rw [runToEnd_enterFault]
    exact (if_pos (interleaveOverflows_iff.1 hover)).symm
  · rw [runToEnd_of_advance Op.noConfusion rfl, runToEnd_of_advance Op.noConfusion rfl, runToEnd_idle rfl]
    exact (if_neg (interleaveOverflows_eq_false.1 hfits).not_gt).symm

/-- The start offset and the size of a frame whose DEC call is still to be made, for each of them in order. -/
def callsToMake (d : Dispatching) : List (Nat × Nat) :=
  (List.range' d.next (d.nc - d.next)).map fun i => (d.starts.getD i 0, d.sizes.getD i 0)

theorem callsToMake_nil {d : Dispatching} (h : d.nc ≤ d.next) : callsToMake d = [] := by
  simp [callsToMake, Nat.sub_eq_zero_of_le h]

theorem callsToMake_cons {d : Dispatching} (h : d.next < d.nc) :
    callsToMake d = (nextStart d, d.sizes.getD d.next 0) :: callsToMake { d with next := d.next + 1 } := by
  rw [callsToMake, show d.nc - d.next = (d.nc - (d.next + 1)) + 1 by omega, List.range'_succ]
  rfl

/-- The DEC calls that are left, and what follows them, are the DEC loop of R160. -/
theorem runToEnd_dispatch {s : State} {d : Dispatching} (hop : s.op = .dispatch d) :
    runToEnd s = decLoop d.buf (callsToMake d) { s with op := .idle } (finish d.newLeft) := by
  have hop_ne : ∀ {s : State} {d : Dispatching}, s.op = .dispatch d → s.op ≠ .idle := fun hop => by simp [hop]
  induction hleft : d.nc - d.next generalizing s d with
  | zero =>
    have hnext : d.nc ≤ d.next := by omega
    rw [callsToMake_nil hnext, runToEnd_of_advance (hop_ne hop) (advance_interleave hop hnext), runToEnd_interleave]
    rfl
  | succ n ih =>
    have hnext : d.next < d.nc := by omega
    have hadvance := advance_call hop hnext
    rw [callsToMake_cons hnext]
    cases hanswer : nextAnswer s with
    | ok k =>
      rw [runToEnd_of_advance (hop_ne hop) (hadvance.trans (decStep_ok hanswer))]
      rcases acceptSamples_cases k d (dropAnswer (emit (.dec (nextCall d s)) s)) with ⟨hover, e⟩ | ⟨hfits, e⟩ <;> rw [e]
      · rw [runToEnd_enterFault, decLoop_overflow (s := { s with op := .idle }) hanswer hover]
        rfl
      · rw [decLoop_ok (s := { s with op := .idle }) hanswer hfits]
        exact ih (d := { d with next := d.next + 1 }) rfl (by dsimp only; omega)
    | capacity =>
      rw [runToEnd_of_advance (hop_ne hop) (hadvance.trans (decStep_capacity hanswer)), runToEnd_enterFault,
        decLoop_capacity (s := { s with op := .idle }) hanswer]
      rfl
    | otherOutcome =>
      rw [runToEnd_refused (hop_ne hop) (hadvance.trans (decStep_otherOutcome hanswer)),
        decLoop_otherOutcome (s := { s with op := .idle }) hanswer]
    | wroteBuffer =>
      rw [runToEnd_refused (hop_ne hop) (hadvance.trans (decStep_wroteBuffer hanswer)),
        decLoop_wroteBuffer (s := { s with op := .idle }) hanswer]

/-- The start offset and the size of each frame recorded from `at_` on (R164). -/
def ranges (at_ : Nat) (sizes : List Nat) : List (Nat × Nat) := (startsFrom at_ sizes).zip sizes

theorem ranges_cons (at_ z : Nat) (zs : List Nat) : ranges at_ (z :: zs) = (at_, z) :: ranges (at_ + z) zs := rfl

theorem ranges_take (at_ n : Nat) (sizes : List Nat) : (ranges at_ sizes).take n = ranges at_ (sizes.take n) := by
  induction sizes generalizing at_ n with
  | nil => simp [ranges]
  | cons z zs ih =>
    cases n with
    | zero => simp [ranges]
    | succ n => rw [ranges_cons, List.take_succ_cons, List.take_succ_cons, ranges_cons, ih]

/-- The complete frames of a scan are the first of its frames (R165). -/
def completeRanges (w : List Byte) (sizes : List Nat) : List (Nat × Nat) :=
  ranges 0 (sizes.take (completeCount w.length sizes))

/-- The DEC calls that a scan ends with are those of its complete frames (R165, R168). -/
theorem callsToMake_eq_completeRanges {d : Dispatching} (hstarts : d.starts = startsFrom 0 d.sizes)
    (hnc : d.nc = completeCount d.buf.length d.sizes) (hnext : d.next = 0) :
    callsToMake d = completeRanges d.buf d.sizes := by
  rw [completeRanges, ← ranges_take, ← hnc]
  have hle : d.nc ≤ d.sizes.length := hnc ▸ completeCount_le _ _
  have hlen := startsFrom_length 0 d.sizes
  apply List.ext_getElem
  · simp [callsToMake, ranges, hnext, hlen, hle]
  · intro i hi _
    have hi' : i < d.nc := by simpa [callsToMake, hnext] using hi
    simp [callsToMake, ranges, hnext, hstarts, hlen, show i < d.sizes.length by omega,
      show i < d.sizes.length + 1 by omega]

/-- PROCESS from the result of its scan on (R160). -/
def afterScan (w : List Byte) (s : State) : Except (FaultCode × Nat × Word32) (List Nat) → Answer
  | .error (code, off, h) => .next (raise code off h s)
  | .ok sizes => decLoop w (completeRanges w sizes) s (finish (leftoverOf s.params.leftoverRule w sizes))

/-- A scan that stops goes on to the DEC loop over its complete frames (R164, R165). -/
theorem runToEnd_endScan (stop : Stop) (p : Scan) (s : State) :
    runToEnd (endScan stop p s) = afterScan p.buf { s with op := .idle } (.ok p.sizes) := by
  rw [runToEnd_dispatch rfl, callsToMake_eq_completeRanges rfl rfl rfl]
  rfl

/-- A scan that runs to the end of its PROCESS is the scan loop of R160 and what follows it. -/
theorem runToEnd_scan {s : State} {p : Scan} {n : Nat} (hop : s.op = .scan p) (hn : p.buf.length < n + p.off) :
    runToEnd s = afterScan p.buf { s with op := .idle } (scanLoop p.buf n p.off p.sizes) := by
  have hstep : ∀ {s : State} {p : Scan}, s.op = .scan p → runToEnd s = runToEnd (applyHdr (hdrParse p.buf p.off) p s) :=
    fun hop => runToEnd_of_advance (by simp [hop]) (by simp only [advance, hop])
  induction n generalizing s p with
  | zero =>
    rw [hstep hop, hdrParse_eq_short.2 (by omega)]
    exact runToEnd_endScan .short p s
  | succ n ih =>
    rw [hstep hop, scanLoop]
    cases hp : hdrParse p.buf p.off with
    | short => exact runToEnd_endScan .short p s
    | nosync => exact runToEnd_endScan .nosync p s
    | frame size =>
      have hsize := (hdrParse_frame hp).2
      exact ih (p := { p with off := p.off + size, sizes := p.sizes ++ [size] }) rfl (by dsimp only; omega)
    | bad code h => exact runToEnd_enterFault code p.off h s

/-- PROCESS is the capacity check, the scan, and what follows the scan (R160, R161). -/
theorem process_eq (c : List Byte) (s : State) :
    process c s =
      if overCapacity s.params.wbufCap (s.leftover.length + c.length) = true then .next (raise .bufferOverflow 0 0#32 s)
      else afterScan (s.leftover ++ c) { s with sampleCursor := 0#32 }
        (scanLoop (s.leftover ++ c) ((s.leftover ++ c).length + 1) 0 []) := by
  unfold process
  split
  · rfl
  · cases scanLoop (s.leftover ++ c) ((s.leftover ++ c).length + 1) 0 [] with
    | error fault => rfl
    | ok sizes =>
      rw [afterScan, completeRanges, ← ranges_take]
      rfl

/-- A PROCESS that begins between transactions runs to the end that R160 has. -/
theorem runToEnd_beginProcess (c : List Byte) (s : State) :
    runToEnd (beginProcess c s) = process c { s with op := .idle } := by
  rw [process_eq]
  rcases beginProcess_cases c s with ⟨hover, e⟩ | ⟨hfits, e⟩ <;> rw [e]
  · rw [runToEnd_enterFault, if_pos hover]
    rfl
  · rw [if_neg (ne_true_of_eq_false hfits)]
    exact runToEnd_scan (p := { buf := s.leftover ++ c, off := 0, sizes := [] }) rfl (Nat.lt_succ_self _)

/-- A CHUNK in DEMUX is PROCESS (R203). -/
theorem exec_chunk_demux {s : State} {c : List Byte} (hop : s.op = .idle) (hphase : s.phase = .demux) (hc : c ≠ []) :
    exec (.chunk c) s = process c s := by
  have htake : takeTransaction (.chunk c) { s with op := .received (.chunk c) } =
      beginProcess c { s with op := .received (.chunk c) } := by
    simp only [takeTransaction, takeChunk, hphase, if_neg hc]
  rw [show exec (.chunk c) s = runTransaction (.chunk c) s from betweenTransactions_idle hop _,
    runTransaction_eq_runToEnd _ (by simp [hphase]), htake, runToEnd_beginProcess]
  exact congrArg (process c) (withOp_idle hop)

end Sys2Proof.Machine

/-! SUPPORT. The small steps of a PROCESS, one at a time: the end of the scan, a DEC call, the ILV call, the segment and the commit
(R164 to R172). -/

namespace Sys2Proof.Machine

open Sys2Proof.Spec

/-! ## Steps that are no instruction -/

/-- With no reset input to come, a step that selects no instruction is a small step (R60). -/
theorem step_of_select_internal {s : State} (hresets : s.resets = []) (h : select s = .internal) : step s = advance s := by
  simp only [step, sequenceStep, hresets, quietStep, perform, h]

theorem select_dispatch {s : State} {d : Dispatching} (hop : s.op = .dispatch d) : select s = .internal := by
  simp only [select, hop]

/-- With no reset input to come, a step after the scan makes the next DEC call while one is left (R168). -/
theorem step_call {s : State} {d : Dispatching} (hresets : s.resets = []) (hop : s.op = .dispatch d) (hnext : d.next < d.nc) :
    step s = decStep d s :=
  (step_of_select_internal hresets (select_dispatch hop)).trans (advance_call hop hnext)

/-- With no reset input to come, a step after the last DEC call is the ILV call (R170). -/
theorem step_interleave {s : State} {d : Dispatching} (hresets : s.resets = []) (hop : s.op = .dispatch d) (hnext : d.nc ≤ d.next) :
    step s = .next (interleave d s) :=
  (step_of_select_internal hresets (select_dispatch hop)).trans (advance_interleave hop hnext)

/-- With no reset input to come, a step after the writes of fault entry sends OUT(FAIL) (R222). -/
theorem step_failing {s : State} (hresets : s.resets = []) (hop : s.op = .failing) : step s = .next (sendFail s) := by
  rw [step_of_select_internal hresets (by simp only [select, hop])]
  simp only [advance, hop]

theorem nextAnswer_cons {s : State} {a : DecAnswer} {rest : List DecAnswer} (h : s.decAnswers = a :: rest) : nextAnswer s = a := by
  simp only [nextAnswer, h]

/-- What a drawn answer leaves of the engine's answers. -/
theorem dropAnswer_eq {s : State} {a : DecAnswer} {rest : List DecAnswer} (h : s.decAnswers = a :: rest) :
    dropAnswer s = { s with decAnswers := rest, draws := s.draws + 1 } := by
  rw [dropAnswer, h, List.tail_cons]

/-! ## DEC calls -/

/-- The writes of fault entry at an offset that fits FAULT_OFF, written out (R222). -/
theorem enterFault_eq {off : Nat} (hoff : off < 2 ^ 32) (code : FaultCode) (h : Word32) (s : State) :
    enterFault code off h s =
      { s with
        faultCode := faultCodeBits code, faultCat := faultCategory code, faultOff := BitVec.ofNat 32 off, faultHdr := h
        phase := .faulted, op := .failing } := by
  rw [← faultOffBits_of_lt hoff]
  rfl

/-- Settles O47: the engine's next answer is OK(k), and the sum fits the cursor. -/
theorem decCallAccumulates : Obligations.DecCallAccumulates := by
  intro s d k rest hop hnext hresets hanswers hfits
  have hcursor : cursorOverflows s.sampleCursor k = false := cursorOverflows_eq_false.2 (by omega)
  refine ⟨_, ?_, rfl, ?_⟩
  · rw [step_call hresets hop hnext, decStep_ok (nextAnswer_cons hanswers), dropAnswer_eq (s := emit _ s) hanswers]
    exact congrArg _ (if_neg (ne_true_of_eq_false hcursor))
  · exact (BitVec.toNat_ofNat _ _).trans (Nat.mod_eq_of_lt hfits)

/-- Settles O48: either answer begins a fault entry at the frame's start, after the call is made and counted nowhere. -/
theorem decCapacityFaults : Obligations.DecCapacityFaults := by
  intro s d a rest hop hnext hresets hanswers hstart written faults
  have hwritten : ∀ code, faultCategory code = 3#4 →
      enterFault code (nextStart d) (hdrWord d.buf (nextStart d)) (dropAnswer (emit (.dec (nextCall d s)) s)) =
        written (faultCodeBits code) := fun code hcategory => by
    rw [enterFault_eq (off := nextStart d) hstart, hcategory, dropAnswer_eq (s := emit _ s) hanswers]
    rfl
  rw [step_call hresets hop hnext]
  refine ⟨?_, ?_⟩
  · rintro rfl
    rw [decStep_capacity (nextAnswer_cons hanswers), hwritten .capacityDecode rfl]
    exact ⟨rfl, step_failing hresets rfl⟩
  · rintro k rfl hover
    rw [decStep_ok (nextAnswer_cons hanswers), acceptSamples, dropAnswer_sampleCursor, emit_sampleCursor,
      if_pos (cursorOverflows_iff.2 hover), hwritten .capacityCursor rfl]
    exact ⟨rfl, step_failing hresets rfl⟩

/-! ## The ILV call, the segment and the commit -/

/-- Settles O49: the interleave check decides between a fault entry and the three small steps that end a PROCESS. -/
theorem interleaveSegmentCommit : Obligations.InterleaveSegmentCommit := by
  intro s d hop hnext hresets
  have hstep := step_interleave hresets hop hnext
  refine ⟨fun hover => ?_, fun hfits => ?_⟩
  · rw [interleave, if_pos (interleaveOverflows_iff.2 hover)] at hstep
    exact ⟨_, hstep, rfl, rfl, rfl, step_failing hresets rfl⟩
  · rw [interleave, if_neg (ne_true_of_eq_false (interleaveOverflows_eq_false.2 hfits))] at hstep
    exact ⟨_, _, _, hstep, step_of_select_internal hresets rfl, step_of_select_internal hresets rfl, rfl, rfl, rfl,
      leftoverLenBits_toNat⟩

/-! ## The end of the scan -/

/-- FITS says that the recorded sizes sum to no more than the buffer's length; no sizes sum to 0 (R165). -/
theorem fitsFlag_iff_sum_le {len : Nat} {sizes : List Nat} : fitsFlag len sizes = true ↔ sizes.sum ≤ len := by
  rw [fitsFlag_iff]
  exact or_iff_right_of_imp fun h => by simp [h]

/-- All recorded frames are complete, or all but the last (R165). -/
theorem completeCount_cases (len : Nat) (sizes : List Nat) :
    (sizes.sum ≤ len ∧ completeCount len sizes = sizes.length) ∨
    (len < sizes.sum ∧ completeCount len sizes + 1 = sizes.length) := by
  unfold completeCount
  split <;> rename_i h <;> rw [fitsFlag_iff_sum_le] at h
  · exact .inl ⟨h, rfl⟩
  · have hne : sizes ≠ [] := by
      rintro rfl
      simp at h
    have := List.length_pos_iff.2 hne
    exact .inr ⟨by omega, by omega⟩

/-- TS is the sum of the sizes of the complete frames (R164, R165). -/
theorem tailStart_eq (len : Nat) (sizes : List Nat) :
    tailStart len sizes = (sizes.take (completeCount len sizes)).sum := by
  rw [tailStart, startsFrom_getD 0 sizes _ (completeCount_le len sizes), Nat.zero_add]

theorem exec_hdrNosync {s : State} {p : Scan} (hop : s.op = .scan p) (b0 b1 b2 b3 : Byte) :
    exec (.hdrNosync b0 b1 b2 b3) s = .next (endScan .nosync p s) :=
  (onScan_scan hop _).trans (congrArg _ (finishFault_of_ne Op.noConfusion))

/-- With no reset input to come, a step of a scan with fewer than 4 bytes left ends it (R163). -/
theorem step_scan_short {s : State} {p : Scan} (hresets : s.resets = []) (hop : s.op = .scan p)
    (hshort : p.buf.length < p.off + 4) : step s = .next (endScan .short p s) := by
  rw [step_of_select_internal hresets (by simp only [select, hop, hdrAt_eq_none.2 hshort])]
  simp only [advance, hop, hdrParse_eq_short.2 hshort, applyHdr]

/-- Settles O23: both ends of a scan decide the same, up to the stop reason. -/
theorem scanEndDecidesCompleteFrames : Obligations.ScanEndDecidesCompleteFrames := by
  intro s p b0 b1 b2 b3 hop hrule n nc ts ends
  have hnc : completeCount p.buf.length p.sizes = nc := by
    rcases completeCount_cases p.buf.length p.sizes with ⟨hsum, e⟩ | ⟨hsum, e⟩
    · exact e.trans (if_neg fun h => by omega).symm
    · exact (Nat.eq_sub_of_add_eq e).trans (if_pos ⟨by omega, hsum⟩).symm
  have hts : tailStart p.buf.length p.sizes = ts := by
    rw [tailStart_eq, hnc]
  have hfits : fitsFlag p.buf.length p.sizes = true ↔ nc = n := by
    rw [fitsFlag_iff_sum_le, ← hnc]
    rcases completeCount_cases p.buf.length p.sizes with ⟨hsum, e⟩ | ⟨hsum, e⟩ <;> omega
  have hstarts : ∀ i, i ≤ n → (startsFrom 0 p.sizes).getD i 0 = (p.sizes.take i).sum := fun i hi => by
    rw [startsFrom_getD 0 p.sizes i hi, Nat.zero_add]
  have hleft : leftoverOf s.params.leftoverRule p.buf p.sizes = p.buf.drop ts := by
    rw [hrule, ← hts]
    rfl
  have hend : ∀ stop, ∃ d, endScan stop p s = { s with op := .dispatch d } ∧ ends stop d := fun stop =>
    ⟨_, rfl, rfl, rfl, startsFrom_length 0 p.sizes, hstarts, hnc, hts, hfits, rfl, rfl, hleft⟩
  refine ⟨?_, fun hresets hshort => ?_⟩
  · obtain ⟨d, e, hd⟩ := hend .nosync
    exact ⟨d, (exec_hdrNosync hop b0 b1 b2 b3).trans (congrArg _ e), hd⟩
  · obtain ⟨d, e, hd⟩ := hend .short
    exact ⟨d, (step_scan_short hresets hop hshort).trans (congrArg _ e), hd⟩

end Sys2Proof.Machine

/-! SUPPORT. What a scan records and what a PROCESS carries: the frames of the working buffer, of which only the last can be
incomplete, and the bytes after the complete ones (R163 to R167, R174). -/

namespace Sys2Proof.Machine

open Sys2Proof.Spec

/-! ## The recorded frames -/

/-- What HDRPARSE accepts as a frame: the sync byte, MPEG-1 Layer III, and indices at which FSIZE answers (R140). -/
theorem hdrParse_eq_frame {buf : List Byte} {off size : Nat} (h : hdrParse buf off = .frame size) :
    ∃ b0 b1 b2 b3, memRead buf off 4 = some [b0, b1, b2, b3] ∧ IsLayer3 b0 b1 ∧
      fsize (b2.extractLsb' 4 4) (b2.extractLsb' 2 2) (b2.extractLsb' 1 1) = .ok size := by
  obtain ⟨b0, b1, b2, b3, hbytes⟩ := memRead_four (hdrParse_frame h).1
  refine ⟨b0, b1, b2, b3, hbytes, ?_⟩
  by_cases h0 : b0 = Config.syncByte
  · by_cases h1 : b1 &&& Config.vlMask = Config.vlMatch
    · cases hsize : fsize (b2.extractLsb' 4 4) (b2.extractLsb' 2 2) (b2.extractLsb' 1 1) with
      | error code =>
        rw [hdrParse_layer3_error hbytes ⟨h0, h1⟩ hsize] at h
        cases h
      | ok z =>
        rw [hdrParse_layer3_ok hbytes ⟨h0, h1⟩ hsize] at h
        cases h
        exact ⟨⟨h0, h1⟩, rfl⟩
    · rw [hdrParse_badVersionLayer hbytes h0 h1] at h
      cases h
  · rw [hdrParse_nosync hbytes h0] at h
    cases h

/-- A frame that the scan records is no longer than the longest frame (R125, R163). -/
theorem hdrParse_frame_le {buf : List Byte} {off size : Nat} (h : hdrParse buf off = .frame size) : size ≤ 1441 := by
  obtain ⟨b0, b1, b2, b3, -, -, hsize⟩ := hdrParse_eq_frame h
  exact fsize_le hsize

/-- Every recorded frame has its header in `w`, and none is longer than the longest frame (R125, R174). -/
def HeadersInside (w : List Byte) (sizes : List Nat) : Prop :=
  ∀ i (hi : i < sizes.length), (sizes.take i).sum + 4 ≤ w.length ∧ sizes[i] ≤ 1441

theorem HeadersInside.nil (w : List Byte) : HeadersInside w [] := fun _ hi => absurd hi (Nat.not_lt_zero _)

/-- One more frame recorded where the frames so far end. -/
theorem HeadersInside.snoc {w : List Byte} {sizes : List Nat} (h : HeadersInside w sizes) {z : Nat}
    (hheader : sizes.sum + 4 ≤ w.length) (hz : z ≤ 1441) : HeadersInside w (sizes ++ [z]) := by
  intro i hi
  rw [List.length_append, List.length_singleton] at hi
  rcases Nat.lt_succ_iff_lt_or_eq.1 hi with hlt | rfl
  · rw [List.take_append_of_le_length hlt.le, List.getElem_append_left hlt]
    exact h i hlt
  · rw [List.take_left, List.getElem_concat_length rfl]
    exact ⟨hheader, hz⟩

theorem scanLoop_headersInside {w : List Byte} {n off : Nat} {sizes recorded : List Nat}
    (h : scanLoop w n off sizes = .ok recorded) (hoff : off = sizes.sum) (hsizes : HeadersInside w sizes) :
    HeadersInside w recorded := by
  induction n generalizing off sizes with
  | zero =>
    cases h
    exact hsizes
  | succ n ih =>
    rw [scanLoop] at h
    cases hp : hdrParse w off with rw [hp] at h
    | short =>
      cases h
      exact hsizes
    | nosync =>
      cases h
      exact hsizes
    | frame z =>
      exact ih h (by simp [hoff]) (hsizes.snoc (hoff ▸ (hdrParse_frame hp).1) (hdrParse_frame_le hp))
    | bad code word => cases h

/-! ## The bytes carried -/

theorem leftoverOf_tail (w : List Byte) (sizes : List Nat) :
    leftoverOf .tail w sizes = w.drop (sizes.take (completeCount w.length sizes)).sum := by
  rw [← tailStart_eq]
  rfl

/-- When every recorded frame fits, the bytes after the last one are carried under either rule (R166, R167). -/
theorem leftoverOf_of_fits (rule : LeftoverRule) {w : List Byte} {sizes : List Nat} (h : sizes.sum ≤ w.length) :
    leftoverOf rule w sizes = w.drop sizes.sum := by
  cases rule with
  | tail =>
    rcases completeCount_cases w.length sizes with ⟨-, e⟩ | ⟨hlt, -⟩
    · rw [leftoverOf_tail, e, List.take_length]
    · exact absurd hlt h.not_gt
  | shortfall =>
    rw [leftoverOf, if_pos (fitsFlag_iff_sum_le.2 h), Nat.sub_sub_self h]

/-- When the last recorded frame does not fit, SHORTFALL carries the last bytes of W, as many as it is short of (R167). -/
theorem leftoverOf_shortfall {w : List Byte} {sizes : List Nat} (h : w.length < sizes.sum) :
    leftoverOf .shortfall w sizes = w.drop (w.length - (sizes.sum - w.length)) :=
  if_neg (mt fitsFlag_iff_sum_le.1 h.not_ge)

/-- Settles O46: frames that fit end where both rules begin to carry, and a shortfall is counted from the end of W. -/
theorem shortfallRule : Obligations.ShortfallRule := by
  intro w sizes
  refine ⟨fun hfits => ?_, fun hshort => ?_⟩
  · rw [leftoverOf_of_fits .shortfall hfits, leftoverOf_of_fits .tail hfits]
  · rw [leftoverOf_shortfall hshort]
    refine ⟨List.drop_suffix _ _, ?_⟩
    rw [List.length_drop]
    omega

/-- The tail begins inside W (R165, R174). -/
theorem HeadersInside.tailStart_le {w : List Byte} {sizes : List Nat} (h : HeadersInside w sizes) :
    (sizes.take (completeCount w.length sizes)).sum ≤ w.length := by
  rcases completeCount_cases w.length sizes with ⟨hsum, e⟩ | ⟨-, e⟩
  · rwa [e, List.take_length]
  · have := (h (completeCount w.length sizes) (by omega)).1
    omega

/-- Settles O42: the header of each recorded frame is in W, and an incomplete last one is at most 1441 bytes long. -/
theorem onlyLastFrameIncomplete : Obligations.OnlyLastFrameIncomplete := by
  intro w sizes h
  have hinside := scanLoop_headersInside h rfl (.nil w)
  refine ⟨fun i hi => (hinside i hi).1, fun hshort => ?_⟩
  rcases completeCount_cases w.length sizes with ⟨hfits, -⟩ | ⟨-, e⟩
  · exact absurd hshort hfits.not_gt
  · obtain ⟨hheader, hsize⟩ := hinside (completeCount w.length sizes) (by omega)
    have hsum : (sizes.take (completeCount w.length sizes)).sum + sizes[completeCount w.length sizes] = sizes.sum := by
      rw [← List.sum_take_succ _ _ (by omega), e, List.take_length]
    rw [leftoverOf_tail, List.length_drop]
    omega

/-! ## The byte ranges of the frames -/

/-- The bytes of `w` in a range, a start offset and a size (R168). -/
def rangeBytes (w : List Byte) (range : Nat × Nat) : List Byte := slice w range.1 (range.1 + range.2)

theorem rangeBytes_eq (w : List Byte) (a z : Nat) : rangeBytes w (a, z) = (w.drop a).take z := by
  rw [rangeBytes, slice, Nat.add_sub_cancel_left]

theorem ranges_length (at_ : Nat) (sizes : List Nat) : (ranges at_ sizes).length = sizes.length := by
  rw [ranges, List.length_zip, startsFrom_length, Nat.min_eq_right (Nat.le_succ _)]

theorem ranges_map_snd (at_ : Nat) (sizes : List Nat) : (ranges at_ sizes).map Prod.snd = sizes := by
  induction sizes generalizing at_ with
  | nil => rfl
  | cons z zs ih => rw [ranges_cons, List.map_cons, ih]

/-- The starts, and the end of the last range after them, are STARTS (R164). -/
theorem ranges_map_fst_append (at_ : Nat) (sizes : List Nat) :
    (ranges at_ sizes).map Prod.fst ++ [at_ + sizes.sum] = startsFrom at_ sizes := by
  induction sizes generalizing at_ with
  | nil => rfl
  | cons z zs ih => rw [ranges_cons, List.map_cons, List.cons_append, List.sum_cons, ← Nat.add_assoc, ih, startsFrom]

/-- The ranges lie one after another, without gap or overlap (R176). -/
theorem flatten_map_rangeBytes (w : List Byte) (at_ : Nat) (sizes : List Nat) :
    ((ranges at_ sizes).map (rangeBytes w)).flatten = (w.drop at_).take sizes.sum := by
  induction sizes generalizing at_ with
  | nil => rfl
  | cons z zs ih =>
    rw [ranges_cons, List.map_cons, List.flatten_cons, ih, rangeBytes_eq, List.sum_cons, List.take_add, List.drop_drop]

/-- A range inside `w` has its size of bytes. -/
theorem map_length_map_rangeBytes {w : List Byte} {at_ : Nat} {sizes : List Nat} (h : at_ + sizes.sum ≤ w.length) :
    ((ranges at_ sizes).map (rangeBytes w)).map List.length = sizes := by
  induction sizes generalizing at_ with
  | nil => rfl
  | cons z zs ih =>
    rw [List.sum_cons] at h
    rw [ranges_cons, List.map_cons, List.map_cons, ih (by omega), rangeBytes_eq, List.length_take, List.length_drop,
      Nat.min_eq_left (by omega)]

/-- When every recorded frame fits, all are complete (R165). -/
theorem completeRanges_of_fits {w : List Byte} {sizes : List Nat} (h : sizes.sum ≤ w.length) :
    completeRanges w sizes = ranges 0 sizes := by
  rcases completeCount_cases w.length sizes with ⟨-, e⟩ | ⟨hlt, -⟩
  · rw [completeRanges, e, List.take_length]
  · exact absurd hlt h.not_gt

/-- Under TAIL the complete frames and the bytes carried are W (R166, R176). -/
theorem completeRanges_append_leftover (w : List Byte) (sizes : List Nat) :
    ((completeRanges w sizes).map (rangeBytes w)).flatten ++ leftoverOf .tail w sizes = w := by
  rw [completeRanges, flatten_map_rangeBytes, leftoverOf_tail, List.drop_zero, List.take_append_drop]

end Sys2Proof.Machine

/-! SUPPORT. A PROCESS that does not fault, said once: the DEC calls over its complete frames, one ILV call, one segment and the commit
(R160, R168 to R172). -/

namespace Sys2Proof.Machine

open Sys2Proof.Spec

/-! ## The DEC calls among port events -/

theorem callsOf_append (later earlier : List PortEvent) : callsOf (later ++ earlier) = callsOf earlier ++ callsOf later := by
  rw [callsOf, List.reverse_append, List.filterMap_append]
  rfl

theorem framesOf_append (later earlier : List PortEvent) : framesOf (later ++ earlier) = framesOf earlier ++ framesOf later := by
  rw [framesOf, callsOf_append, List.map_append]
  rfl

/-- What a PROCESS that does not fault does on the ports, newest first (R60, R171). -/
def processEvents (seg : Segment) (count : Word32) (calls : List DecCall) : List PortEvent :=
  .out (.segment seg) :: .ilv count :: (calls.map PortEvent.dec).reverse

theorem callsOf_processEvents (seg : Segment) (count : Word32) (calls : List DecCall) :
    callsOf (processEvents seg count calls) = calls := by
  simp [callsOf, processEvents, List.filterMap_map]

/-! ## The DEC loop -/

/-- The calls over the ranges `frames` of `w`, each answered OK(k), lead from `s` to `u` (R168). -/
structure Decodes (w : List Byte) (frames : List (Nat × Nat)) (calls : List DecCall) (s u : State) : Prop where
  /-- Each range is called once, in order. -/
  ranges : calls.map (fun call => (call.start, call.size)) = frames
  /-- Each call is over `w`. -/
  buf : ∀ call ∈ calls, call.buf = w
  log : u.log = (calls.map PortEvent.dec).reverse ++ s.log
  frameCount : u.frameCount = s.frameCount + BitVec.ofNat 32 calls.length
  /-- Nothing else but the cursor and the inputs drawn changes. -/
  frame : u = { s with
    sampleCursor := u.sampleCursor, frameCount := u.frameCount, decAnswers := u.decAnswers, draws := u.draws, log := u.log }

theorem Decodes.nil (w : List Byte) (s : State) : Decodes w [] [] s s where
  ranges := rfl
  buf := fun _ h => absurd h List.not_mem_nil
  log := rfl
  frameCount := (BitVec.add_zero _).symm
  frame := rfl

/-- One call before the others. -/
theorem Decodes.cons {w : List Byte} {a z k : Nat} {frames : List (Nat × Nat)} {calls : List DecCall} {s u : State}
    (h : Decodes w frames calls (decoded w a z k s) u) :
    Decodes w ((a, z) :: frames) ({ buf := w, start := a, size := z, cursor := s.sampleCursor, pcmSize := s.pcmBufferSize } :: calls)
      s u where
  ranges := congrArg _ h.ranges
  buf := List.forall_mem_cons.2 ⟨rfl, h.buf⟩
  log := by
    rw [h.log, List.map_cons, List.reverse_cons, List.append_assoc]
    rfl
  frameCount := by
    rw [h.frameCount, List.length_cons, Nat.add_comm, BitVec.ofNat_add, ← BitVec.add_assoc]
    rfl
  frame := h.frame

/-- The frames the calls hand to the engine are the bytes of the ranges. -/
theorem Decodes.frames {w : List Byte} {frames : List (Nat × Nat)} {calls : List DecCall} {s u : State}
    (h : Decodes w frames calls s u) : calls.map decFrame = frames.map (rangeBytes w) := by
  rw [← h.ranges, List.map_map]
  refine List.map_congr_left fun call hcall => ?_
  rw [decFrame, h.buf call hcall]
  rfl

/-- A DEC loop that does not fault made a call for each frame and went on to what follows. -/
theorem decLoop_next {w : List Byte} {frames : List (Nat × Nat)} {s t : State} {after : State → Answer}
    (h : decLoop w frames s after = .next t) (ht : t.phase ≠ .faulted) :
    ∃ calls u, Decodes w frames calls s u ∧ after u = .next t := by
  induction frames generalizing s with
  | nil => exact ⟨[], s, .nil w s, h⟩
  | cons range frames ih =>
    obtain ⟨a, z⟩ := range
    cases hanswer : nextAnswer s with
    | ok k =>
      cases hcursor : cursorOverflows s.sampleCursor k with
      | false =>
        rw [decLoop_ok hanswer hcursor] at h
        obtain ⟨calls, u, hu, hafter⟩ := ih h
        exact ⟨_, u, hu.cons, hafter⟩
      | true =>
        rw [decLoop_overflow hanswer hcursor] at h
        cases h
        exact absurd rfl ht
    | capacity =>
      rw [decLoop_capacity hanswer] at h
      cases h
      exact absurd rfl ht
    | otherOutcome =>
      rw [decLoop_otherOutcome hanswer] at h
      cases h
    | wroteBuffer =>
      rw [decLoop_wroteBuffer hanswer] at h
      cases h

/-- Answers OK(k) whose sum fits the cursor: the DEC loop calls every frame, adds the answers up and uses no others. -/
theorem decLoop_answered {w : List Byte} {frames : List (Nat × Nat)} {ks : List Nat} {rest : List DecAnswer} {s : State}
    (after : State → Answer) (hlen : ks.length = frames.length) (hanswers : s.decAnswers = ks.map DecAnswer.ok ++ rest)
    (hfits : s.sampleCursor.toNat + ks.sum < 2 ^ 32) :
    ∃ calls u, decLoop w frames s after = after u ∧ Decodes w frames calls s u ∧
      u.sampleCursor.toNat = s.sampleCursor.toNat + ks.sum ∧ u.decAnswers = rest := by
  induction frames generalizing s ks with
  | nil =>
    obtain rfl : ks = [] := List.length_eq_zero_iff.1 hlen
    exact ⟨[], s, rfl, .nil w s, rfl, hanswers⟩
  | cons range frames ih =>
    obtain ⟨a, z⟩ := range
    obtain ⟨k, ks, rfl⟩ := List.exists_cons_of_length_eq_add_one hlen
    rw [List.sum_cons] at hfits
    have hcursor : (decoded w a z k s).sampleCursor.toNat = s.sampleCursor.toNat + k :=
      (BitVec.toNat_ofNat _ _).trans (Nat.mod_eq_of_lt (by omega))
    obtain ⟨calls, u, hloop, hu, hsum, hrest⟩ := ih (ks := ks) (s := decoded w a z k s) (by simpa using hlen)
      (congrArg List.tail hanswers) (by omega)
    refine ⟨_, u, ?_, hu.cons, ?_, hrest⟩
    · rw [decLoop_ok (nextAnswer_cons hanswers) (cursorOverflows_eq_false.2 (by omega)), hloop]
    · rw [hsum, hcursor, List.sum_cons, Nat.add_assoc]

/-! ## The end of a PROCESS -/

/-- The state after ILV, OUT(SEGMENT) and the commit (R170 to R172). -/
def committed (newLeft : List Byte) (s : State) : State :=
  { s with
    segCount := s.segCount + 1#32
    leftover := newLeft
    leftoverLen := lenReads newLeft.length
    draws := s.draws + 1
    log := .out (.segment { len := 4 * s.sampleCursor.toNat, draw := s.draws }) :: .ilv s.sampleCursor :: s.log }

theorem finish_fits {newLeft : List Byte} {s : State} (h : 4 * s.sampleCursor.toNat ≤ s.pcmBufferSize.toNat) :
    finish newLeft s = .next (committed newLeft s) := if_neg h.not_gt

theorem finish_next {newLeft : List Byte} {s t : State} (h : finish newLeft s = .next t) (ht : t.phase ≠ .faulted) :
    t = committed newLeft s := by
  unfold finish at h
  split at h
  · cases h
    exact absurd rfl ht
  · cases h
    rfl

/-- What a PROCESS of `c` that does not fault did: `sizes` recorded, the DEC calls over the complete frames, the commit (R160). -/
structure Processed (c : List Byte) (sizes : List Nat) (calls : List DecCall) (s u t : State) : Prop where
  scanned : scanLoop (s.leftover ++ c) ((s.leftover ++ c).length + 1) 0 [] = .ok sizes
  decodes : Decodes (s.leftover ++ c) (completeRanges (s.leftover ++ c) sizes) calls { s with sampleCursor := 0#32 } u
  commits : t = committed (leftoverOf s.params.leftoverRule (s.leftover ++ c) sizes) u

/-- A PROCESS that fits and whose scan records frames goes on to the DEC loop (R161, R163). -/
theorem process_scanned {c : List Byte} {s : State} {sizes : List Nat}
    (hfits : overCapacity s.params.wbufCap (s.leftover.length + c.length) = false)
    (hscan : scanLoop (s.leftover ++ c) ((s.leftover ++ c).length + 1) 0 [] = .ok sizes) :
    process c s = decLoop (s.leftover ++ c) (completeRanges (s.leftover ++ c) sizes) { s with sampleCursor := 0#32 }
      (finish (leftoverOf s.params.leftoverRule (s.leftover ++ c) sizes)) := by
  rw [process_eq, if_neg (ne_true_of_eq_false hfits), hscan]
  rfl

theorem process_overflows {c : List Byte} {s : State}
    (h : overCapacity s.params.wbufCap (s.leftover.length + c.length) = true) :
    process c s = .next (raise .bufferOverflow 0 0#32 s) := by
  rw [process_eq, if_pos h]

/-- A PROCESS that does not fault (R160). -/
theorem process_next {c : List Byte} {s t : State} (h : process c s = .next t) (ht : t.phase ≠ .faulted) :
    ∃ sizes calls u, Processed c sizes calls s u t := by
  cases hcap : overCapacity s.params.wbufCap (s.leftover.length + c.length) with
  | true =>
    rw [process_overflows hcap] at h
    cases h
    exact absurd rfl ht
  | false =>
    cases hscan : scanLoop (s.leftover ++ c) ((s.leftover ++ c).length + 1) 0 [] with
    | error fault =>
      rw [process_eq, if_neg (ne_true_of_eq_false hcap), hscan] at h
      cases h
      exact absurd rfl ht
    | ok sizes =>
      rw [process_scanned hcap hscan] at h
      obtain ⟨calls, u, hdecodes, hfinish⟩ := decLoop_next h ht
      exact ⟨sizes, calls, u, hscan, hdecodes, finish_next hfinish ht⟩

/-! ## What it leaves -/

section
variable {c : List Byte} {sizes : List Nat} {calls : List DecCall} {s u t : State} (h : Processed c sizes calls s u t)
include h

theorem Processed.log : ∃ draw, t.log =
    processEvents { len := 4 * t.sampleCursor.toNat, draw := draw } t.sampleCursor calls ++ s.log := by
  rw [h.commits]
  exact ⟨u.draws, congrArg _ (congrArg _ h.decodes.log)⟩

theorem Processed.events : ∃ events, t.log = events ++ s.log ∧ callsOf events = calls := by
  obtain ⟨draw, hlog⟩ := h.log
  exact ⟨_, hlog, callsOf_processEvents _ _ calls⟩

theorem Processed.frameCount : t.frameCount = s.frameCount + BitVec.ofNat 32 calls.length := by
  rw [h.commits]
  exact h.decodes.frameCount

theorem Processed.segCount : t.segCount = s.segCount + 1#32 := by
  rw [h.commits, h.decodes.frame]
  rfl

theorem Processed.frame : t = { s with
    sampleCursor := t.sampleCursor, segCount := t.segCount, frameCount := t.frameCount, leftover := t.leftover
    leftoverLen := t.leftoverLen, decAnswers := t.decAnswers, draws := t.draws, log := t.log } := by
  rw [h.commits, h.decodes.frame]
  rfl

theorem Processed.phase : t.phase = s.phase := by
  rw [h.frame]

theorem Processed.op : t.op = s.op := by
  rw [h.frame]

theorem Processed.params : t.params = s.params := by
  rw [h.frame]

theorem Processed.leftover : t.leftover = leftoverOf s.params.leftoverRule (s.leftover ++ c) sizes := by
  rw [h.commits]
  rfl

theorem Processed.leftoverLen : t.leftoverLen = lenReads t.leftover.length := by
  rw [h.commits]
  rfl

theorem Processed.sampleCursor : t.sampleCursor = u.sampleCursor := by
  rw [h.commits]
  rfl

theorem Processed.decAnswers : t.decAnswers = u.decAnswers := by
  rw [h.commits]
  rfl

end

/-! ## The obligations of one PROCESS -/

/-- A CHUNK in DEMUX that ends in DEMUX is a PROCESS that does not fault. -/
theorem exec_chunk_processed {s t : State} {c : List Byte} (hop : s.op = .idle) (hphase : s.phase = .demux) (hc : c ≠ [])
    (h : exec (.chunk c) s = .next t) (ht : t.phase = .demux) : ∃ sizes calls u, Processed c sizes calls s u t :=
  process_next ((exec_chunk_demux hop hphase hc).symm.trans h) (by simp [ht])

/-- Settles O45: the capacity check comes first, and its fault entry is all that happens. -/
theorem bufferOverflowFaults : Obligations.BufferOverflowFaults := by
  intro s c k hop hphase hc hcap hlen
  have hover : overCapacity s.params.wbufCap (s.leftover.length + c.length) = true := by
    rw [hcap]
    exact decide_eq_true hlen
  rw [exec_chunk_demux hop hphase hc, process_overflows hover, raise_eq_faultedWith, withOp_idle hop]
  rfl

/-- Settles O41: the events of a PROCESS that does not fault are those of its DEC calls, its ILV call and its segment. -/
theorem oneSegmentPerProcess : Obligations.OneSegmentPerProcess := by
  intro s t c hop hphase hc h ht
  obtain ⟨sizes, calls, u, hp⟩ := exec_chunk_processed hop hphase hc h ht
  obtain ⟨draw, hlog⟩ := hp.log
  exact ⟨_, calls, hlog, rfl, segmentBytes_length _, hp.segCount, hp.frameCount⟩

/-- Settles O40: the calls are over the complete ranges, which lie one after another from 0 to where the tail begins. -/
theorem workingBufferPartition : Obligations.WorkingBufferPartition := by
  intro s t c hop hphase hc hrule h ht
  obtain ⟨sizes, calls, u, hp⟩ := exec_chunk_processed hop hphase hc h ht
  obtain ⟨events, hlog, rfl⟩ := hp.events
  have hstarts : (callsOf events).map (·.start) = (completeRanges (s.leftover ++ c) sizes).map Prod.fst := by
    rw [← hp.decodes.ranges, List.map_map]
    rfl
  have hsizes : (callsOf events).map (·.size) = sizes.take (completeCount (s.leftover ++ c).length sizes) := by
    rw [← ranges_map_snd 0 (sizes.take _), ← completeRanges, ← hp.decodes.ranges, List.map_map]
    rfl
  refine ⟨events, 0 + (sizes.take (completeCount (s.leftover ++ c).length sizes)).sum, hlog, hp.decodes.buf, ?_, ?_⟩
  · rw [hstarts, hsizes]
    exact ranges_map_fst_append 0 _
  · rw [framesOf, hp.decodes.frames, hp.leftover, hrule]
    exact completeRanges_append_leftover _ _

/-! ## No resynchronisation -/

/-- A scan whose first byte is not the sync byte records nothing (R141, R163). -/
theorem scanLoop_nosync {b : Byte} {w : List Byte} (hb : b ≠ Config.syncByte) (n : Nat) (sizes : List Nat) :
    scanLoop (b :: w) (n + 1) 0 sizes = .ok sizes := by
  rw [scanLoop]
  by_cases hlen : (b :: w).length < 0 + 4
  · rw [hdrParse_eq_short.2 hlen]
  · obtain ⟨b0, b1, b2, b3, hbytes⟩ := memRead_four (not_lt.1 hlen)
    obtain rfl : b0 = b := (List.cons.inj (memRead_eq_some.1 hbytes).2).1
    rw [hdrParse_nosync hbytes hb]

/-- Settles O43: the scan stops at the first byte, so there is no DEC call, the cursor stays 0 and W is carried whole. -/
theorem noResynchronisation : Obligations.NoResynchronisation := by
  intro s b left c hop hphase hc hleft hb hfits
  have hscan : scanLoop (s.leftover ++ c) ((s.leftover ++ c).length + 1) 0 [] = .ok [] := by
    rw [hleft]
    exact scanLoop_nosync hb _ _
  have hcarried : leftoverOf s.params.leftoverRule (s.leftover ++ c) [] = s.leftover ++ c :=
    leftoverOf_of_fits _ (Nat.zero_le _)
  rw [exec_chunk_demux hop hphase hc, process_scanned hfits hscan, hcarried]
  exact finish_fits (Nat.zero_le _)

end Sys2Proof.Machine

/-! SUPPORT. A stream of whole frames cut into chunks: the scan of a beginning of the stream records the frames that are there, so the
DEC calls and the bytes carried depend on the bytes that have arrived only (R177). -/

namespace Sys2Proof.Machine

open Sys2Proof.Spec

/-! ## Beginnings of a stream of frames -/

/-- Of the frames of a stream whose beginning `w` has arrived, the first `j` are all that have wholly arrived, and `left` is the rest of
what has (R177). -/
structure CutAt (frames : List (List Byte)) (w : List Byte) (j : Nat) (left : List Byte) : Prop where
  le : j ≤ frames.length
  bytes : (frames.take j).flatten ++ left = w
  next : j < frames.length → w.length < (frames.take (j + 1)).flatten.length

theorem length_flatten_take_le (frames : List (List Byte)) (n : Nat) :
    (frames.take n).flatten.length ≤ frames.flatten.length :=
  (List.take_sublist n frames).flatten.length_le

/-- When all frames have arrived nothing is left. -/
theorem CutAt.all {frames : List (List Byte)} {j : Nat} {left : List Byte} (h : CutAt frames frames.flatten j left) :
    j = frames.length ∧ left = [] := by
  have hj : j = frames.length := by
    by_contra hne
    exact (length_flatten_take_le frames (j + 1)).not_gt (h.next (h.le.lt_of_ne hne))
  refine ⟨hj, ?_⟩
  have hbytes := h.bytes
  rw [hj, List.take_length] at hbytes
  exact List.append_right_eq_self.1 hbytes

/-- Before the first byte of a stream of non-empty frames. -/
theorem CutAt.nil {frames : List (List Byte)} (h : ∀ f ∈ frames, 0 < f.length) : CutAt frames [] 0 [] where
  le := Nat.zero_le _
  bytes := rfl
  next := fun hlen => by
    obtain ⟨f, fs, rfl⟩ := List.exists_cons_of_length_pos hlen
    simpa using h f List.mem_cons_self

/-- The frames left after the first `i` begin with what the first cut left. -/
theorem CutAt.drop {frames : List (List Byte)} {w left : List Byte} {i : Nat} (h : CutAt frames w i left) :
    CutAt (frames.drop i) left 0 left where
  le := Nat.zero_le _
  bytes := rfl
  next := fun hlen => by
    have hnext := h.next (by simpa using hlen)
    rw [← h.bytes, List.take_add, List.flatten_append, List.length_append, List.length_append] at hnext
    simpa using hnext

/-- A cut of what the first cut left, with more bytes after it. -/
theorem CutAt.trans {frames : List (List Byte)} {w left more left' : List Byte} {i j : Nat} (h : CutAt frames w i left)
    (h' : CutAt (frames.drop i) (left ++ more) j left') : CutAt frames (w ++ more) (i + j) left' where
  le := by
    have := h.le
    have := h'.le
    rw [List.length_drop] at this
    omega
  bytes := by
    rw [List.take_add, List.flatten_append, List.append_assoc, h'.bytes, ← List.append_assoc, h.bytes]
  next := fun hlen => by
    have hnext := h'.next (by rw [List.length_drop]; omega)
    rw [Nat.add_assoc, List.take_add, List.flatten_append, ← h.bytes]
    simp only [List.length_append] at hnext ⊢
    omega

/-! ## The scan of a beginning of a stream -/

/-- A whole frame is no shorter than the shortest frame (R125, R177). -/
theorem wholeFrame_length_ge {f : List Byte} (h : WholeFrame f) : 96 ≤ f.length := (hdrParse_frame h).2

/-- HDRPARSE reads four bytes only (R140). -/
theorem hdrParse_eq_of_memRead {buf buf' : List Byte} {off off' : Nat} (h : memRead buf off 4 = memRead buf' off' 4) :
    hdrParse buf off = hdrParse buf' off' := by
  rw [hdrParse, h, hdrParse]

/-- Where a whole frame begins and four bytes of it have arrived, HDRPARSE answers the frame. -/
theorem hdrParse_wholeFrame {w future before f later : List Byte} (hf : WholeFrame f)
    (hw : w ++ future = before ++ (f ++ later)) (hheader : before.length + 4 ≤ w.length) :
    hdrParse w before.length = .frame f.length := by
  have hlen := wholeFrame_length_ge hf
  have hbytes : (w.drop before.length).take 4 = f.take 4 := by
    have htake := congrArg (fun l => (l.drop before.length).take 4) hw
    rwa [List.drop_left, List.drop_append_of_le_length (by omega), List.take_append_of_le_length (by rw [List.length_drop]; omega),
      List.take_append_of_le_length (by omega)] at htake
  rw [← hf]
  apply hdrParse_eq_of_memRead
  rw [memRead, memRead, if_pos hheader, if_pos (by omega), hbytes, List.drop_zero]

/-- A scan with fewer than 4 bytes left records nothing more (R163). -/
theorem scanLoop_short {w : List Byte} {off : Nat} (h : w.length < off + 4) (n : Nat) (sizes : List Nat) :
    scanLoop w n off sizes = .ok sizes := by
  cases n with
  | zero => rfl
  | succ n => rw [scanLoop, hdrParse_eq_short.2 h]

/-- The scan records the frames whose headers have arrived (R163, R177). -/
theorem scanLoop_wholeFrames {w future before : List Byte} {frames : List (List Byte)} {n : Nat} (sizes : List Nat)
    (hframes : ∀ f ∈ frames, WholeFrame f) (hw : w ++ future = before ++ frames.flatten) (hn : w.length < n + before.length) :
    ∃ m ≤ frames.length, scanLoop w n before.length sizes = .ok (sizes ++ (frames.take m).map List.length) ∧
      (m < frames.length → w.length < before.length + (frames.take m).flatten.length + 4) := by
  induction frames generalizing n before sizes with
  | nil =>
    have hlen := congrArg List.length hw
    simp only [List.flatten_nil, List.append_nil, List.length_append] at hlen
    exact ⟨0, le_rfl, by simpa using scanLoop_short (by omega) n sizes, fun h => absurd h (Nat.not_lt_zero _)⟩
  | cons f frames ih =>
    by_cases hshort : w.length < before.length + 4
    · exact ⟨0, Nat.zero_le _, by simpa using scanLoop_short hshort n sizes, fun _ => hshort⟩
    · obtain ⟨n, rfl⟩ : ∃ k, n = k + 1 := ⟨n - 1, by omega⟩
      obtain ⟨hf, hframes⟩ := List.forall_mem_cons.1 hframes
      have hparse := hdrParse_wholeFrame hf hw (not_lt.1 hshort)
      have hlen := wholeFrame_length_ge hf
      obtain ⟨m, hm, hscan, hnext⟩ := ih (n := n) (before := before ++ f) (sizes ++ [f.length]) hframes
        (by rw [hw, List.append_assoc]; rfl) (by rw [List.length_append]; omega)
      refine ⟨m + 1, Nat.succ_le_succ hm, ?_, fun hlt => ?_⟩
      · rw [scanLoop, hparse]
        dsimp only
        rw [← List.length_append, hscan, List.append_assoc]
        rfl
      · have := hnext (Nat.lt_of_succ_lt_succ hlt)
        rw [List.length_append] at this
        rw [List.take_succ_cons, List.flatten_cons, List.length_append]
        omega

/-- The bytes of the ranges of frames that have arrived are the frames. -/
theorem map_rangeBytes_frames {w future later : List Byte} {frames : List (List Byte)}
    (hw : w ++ future = frames.flatten ++ later) (hle : frames.flatten.length ≤ w.length) :
    (ranges 0 (frames.map List.length)).map (rangeBytes w) = frames ∧ w.take frames.flatten.length = frames.flatten := by
  have htake : w.take frames.flatten.length = frames.flatten := by
    rw [← List.take_append_of_le_length hle (l₂ := future), hw, List.take_left]
  refine ⟨List.eq_iff_flatten_eq.2 ⟨?_, ?_⟩, htake⟩
  · rw [flatten_map_rangeBytes, ← List.length_flatten, List.drop_zero, htake]
  · rw [map_length_map_rangeBytes]
    rwa [← List.length_flatten, Nat.zero_add]

/-- The next frame of a stream adds at least the shortest frame. -/
theorem length_flatten_take_succ {frames : List (List Byte)} {m : Nat} (hframes : ∀ f ∈ frames, WholeFrame f)
    (hm : m < frames.length) :
    (frames.take m).flatten.length + 96 ≤ (frames.take (m + 1)).flatten.length := by
  have hlen := wholeFrame_length_ge (hframes frames[m] (List.getElem_mem hm))
  rw [← List.take_concat_get' _ _ hm, List.flatten_append, List.length_append]
  simpa using hlen

/-- The scan of a beginning of a stream of whole frames cuts it after the last frame that has wholly arrived (R177). -/
theorem scanLoop_cutAt {w future : List Byte} {frames : List (List Byte)} {sizes : List Nat} (hframes : ∀ f ∈ frames, WholeFrame f)
    (hw : w ++ future = frames.flatten) (hscan : scanLoop w (w.length + 1) 0 [] = .ok sizes) :
    ∃ i, (completeRanges w sizes).map (rangeBytes w) = frames.take i ∧ CutAt frames w i (leftoverOf .tail w sizes) := by
  obtain ⟨m, hm, hrecorded, hnext⟩ := scanLoop_wholeFrames (n := w.length + 1) (before := []) [] hframes hw (Nat.lt_succ_self _)
  obtain rfl : sizes = (frames.take m).map List.length := Except.ok.inj (hscan.symm.trans hrecorded)
  have hinside := (scanLoop_headersInside hscan rfl (.nil w)).tailStart_le
  have hi := completeCount_cases w.length ((frames.take m).map List.length)
  rw [← List.length_flatten, List.length_map, List.length_take, Nat.min_eq_left hm] at hi
  rw [completeRanges, leftoverOf_tail]
  generalize completeCount w.length ((frames.take m).map List.length) = i at hinside hi ⊢
  have him : i ≤ m := by omega
  rw [← List.map_take, List.take_take, Nat.min_eq_left him, ← List.length_flatten] at hinside ⊢
  obtain ⟨hranges, htake⟩ := map_rangeBytes_frames (frames := frames.take i) (later := (frames.drop i).flatten)
    (by rw [hw, ← List.flatten_append, List.take_append_drop]) hinside
  refine ⟨i, hranges, him.trans hm, ?_, fun hlt => ?_⟩
  · rw [← htake, List.length_take, Nat.min_eq_left hinside, List.take_append_drop]
  · rcases hi with ⟨-, rfl⟩ | ⟨hshort, rfl⟩
    · have hlast := hnext hlt
      have hframe := length_flatten_take_succ hframes hlt
      rw [List.length_nil] at hlast
      omega
    · exact hshort

/-- A PROCESS of bytes of a stream of whole frames calls DEC once for each frame whose last byte is now there (R177). -/
theorem Processed.cutAt {c future : List Byte} {frames : List (List Byte)} {sizes : List Nat} {calls : List DecCall} {s u t : State}
    (h : Processed c sizes calls s u t) (hrule : s.params.leftoverRule = .tail) (hframes : ∀ f ∈ frames, WholeFrame f)
    (hw : (s.leftover ++ c) ++ future = frames.flatten) :
    ∃ i, calls.map decFrame = frames.take i ∧ CutAt frames (s.leftover ++ c) i t.leftover := by
  obtain ⟨i, hranges, hcut⟩ := scanLoop_cutAt hframes hw h.scanned
  rw [h.decodes.frames, h.leftover, hrule]
  exact ⟨i, hranges, hcut⟩

/-! ## Chunks one after another -/

theorem runChunks_cons {c : List Byte} {chunks : List (List Byte)} {s t : State} (h : runChunks (c :: chunks) s = .next t) :
    ∃ u, exec (.chunk c) s = .next u ∧ runChunks chunks u = .next t := by
  rw [runChunks] at h
  cases e : exec (.chunk c) s with rw [e] at h
  | next u => exact ⟨u, rfl, h⟩
  | fault r => cases h
  | refused r => cases h

/-- No chunk is taken in FAULTED (R208). -/
theorem runChunks_faulted {chunks : List (List Byte)} {s t : State} (h : runChunks chunks s = .next t) (hs : s.phase = .faulted) :
    t.phase = .faulted := by
  induction chunks generalizing s with
  | nil =>
    cases h
    exact hs
  | cons c chunks ih =>
    obtain ⟨u, hexec, hrest⟩ := runChunks_cons h
    obtain ⟨-, hrun⟩ := betweenTransactions_next hexec
    rw [runTransaction_faulted hs] at hrun
    cases hrun
    exact ih hrest hs

/-- Chunks of a stream of whole frames, of which `s.leftover` is the part that is carried: the cut after all of them, and the calls for
the frames before it (R177). -/
theorem runChunks_cutAt {chunks frames : List (List Byte)} {future : List Byte} {s t : State} (hop : s.op = .idle)
    (hphase : s.phase = .demux) (hrule : s.params.leftoverRule = .tail) (hframes : ∀ f ∈ frames, WholeFrame f)
    (hchunks : ∀ c ∈ chunks, c ≠ []) (hw : (s.leftover ++ chunks.flatten) ++ future = frames.flatten)
    (hstart : CutAt frames s.leftover 0 s.leftover) (h : runChunks chunks s = .next t) (ht : t.phase = .demux) :
    ∃ events j, t.log = events ++ s.log ∧ framesOf events = frames.take j ∧
      CutAt frames (s.leftover ++ chunks.flatten) j t.leftover := by
  induction chunks generalizing s frames with
  | nil =>
    cases h
    exact ⟨[], 0, rfl, rfl, by simpa using hstart⟩
  | cons c chunks ih =>
    obtain ⟨hc, hchunks⟩ := List.forall_mem_cons.1 hchunks
    rw [List.flatten_cons, ← List.append_assoc] at hw ⊢
    obtain ⟨v, hexec, hrest⟩ := runChunks_cons h
    have hv : v.phase ≠ .faulted := fun hv => by simp [runChunks_faulted hrest hv] at ht
    obtain ⟨sizes, calls, u, hp⟩ := process_next ((exec_chunk_demux hop hphase hc).symm.trans hexec) hv
    obtain ⟨i, hcalls, hcut⟩ := hp.cutAt hrule hframes ((List.append_assoc _ _ _).symm.trans hw)
    have hleft : (v.leftover ++ chunks.flatten) ++ future = (frames.drop i).flatten := by
      apply List.append_cancel_left (as := (frames.take i).flatten)
      rw [← List.append_assoc, ← List.append_assoc, hcut.bytes, hw, ← List.flatten_append, List.take_append_drop]
    obtain ⟨later, j, hlater, hlaterFrames, hlaterCut⟩ := ih (hp.op.trans hop) (hp.phase.trans hphase)
      (hp.params ▸ hrule) (fun f hf => hframes f (List.mem_of_mem_drop hf)) hchunks hleft hcut.drop hrest
    obtain ⟨events, hlog, rfl⟩ := hp.events
    refine ⟨later ++ events, i + j, ?_, ?_, hcut.trans hlaterCut⟩
    · rw [hlater, hlog, List.append_assoc]
    · rw [framesOf_append, hlaterFrames, framesOf, hcalls, List.take_add]

/-- Settles O44: after the chunks the stream is cut behind the last frame that has wholly arrived, however they are divided. -/
theorem chunkingIndependence : Obligations.ChunkingIndependence := by
  intro s t frames chunks future hop hphase hleft _ hrule hframes hchunks hstream h ht
  have hstart : CutAt frames s.leftover 0 s.leftover := by
    rw [hleft]
    exact .nil fun f hf => (Nat.zero_lt_succ _).trans_le (wholeFrame_length_ge (hframes f hf))
  obtain ⟨events, j, hlog, hcalls, hcut⟩ := runChunks_cutAt hop hphase hrule hframes hchunks
    (by rwa [hleft, List.nil_append]) hstart h ht
  rw [hleft, List.nil_append] at hcut
  refine ⟨events, j, hlog, hcut.le, hcalls, hcut.bytes, hcut.next, ?_⟩
  rintro rfl
  rw [List.append_nil] at hstream
  rw [hstream] at hcut
  obtain ⟨rfl, hempty⟩ := hcut.all
  exact ⟨hcalls.trans List.take_length, hempty⟩

/-! ## A CHUNK of whole frames -/

/-- The scan of whole frames records all of them. -/
theorem scanLoop_flatten {frames : List (List Byte)} (hframes : ∀ f ∈ frames, WholeFrame f) :
    scanLoop frames.flatten (frames.flatten.length + 1) 0 [] = .ok (frames.map List.length) := by
  obtain ⟨m, hm, hscan, hnext⟩ := scanLoop_wholeFrames (n := frames.flatten.length + 1) (before := []) (future := []) [] hframes
    (List.append_nil _) (Nat.lt_succ_self _)
  rcases hm.lt_or_eq with hlt | rfl
  · have hlast := hnext hlt
    have hframe := length_flatten_take_succ hframes hlt
    have hle := length_flatten_take_le frames (m + 1)
    rw [List.nil_append, List.length_nil] at hlast
    omega
  · rwa [List.take_length] at hscan

theorem flatten_ne_nil {frames : List (List Byte)} (hne : frames ≠ []) (hframes : ∀ f ∈ frames, WholeFrame f) :
    frames.flatten ≠ [] := by
  obtain ⟨f, fs, rfl⟩ := List.exists_cons_of_ne_nil hne
  have hlen := wholeFrame_length_ge (hframes f List.mem_cons_self)
  rw [List.flatten_cons, ← List.length_pos_iff, List.length_append]
  omega

/-- Settles O39: all frames are recorded and complete, so every one is called, and the bytes after the last one are none. -/
theorem wholeFramesChunkCompletes : Obligations.WholeFramesChunkCompletes := by
  intro s frames ks rest hop hphase hleft hne hframes hcap hlen hanswers hroom
  have hw : s.leftover ++ frames.flatten = frames.flatten := by rw [hleft, List.nil_append]
  have hsum : (frames.map List.length).sum = frames.flatten.length := List.length_flatten.symm
  have hscan : scanLoop (s.leftover ++ frames.flatten) ((s.leftover ++ frames.flatten).length + 1) 0 [] =
      .ok (frames.map List.length) := by
    rw [hw]
    exact scanLoop_flatten hframes
  have hcomplete : completeRanges (s.leftover ++ frames.flatten) (frames.map List.length) = ranges 0 (frames.map List.length) :=
    completeRanges_of_fits (by rw [hw, hsum])
  have hcarried : leftoverOf s.params.leftoverRule (s.leftover ++ frames.flatten) (frames.map List.length) = [] := by
    rw [leftoverOf_of_fits _ (by rw [hw, hsum]), hsum, hw, List.drop_length]
  have hpcm := s.pcmBufferSize.isLt
  obtain ⟨calls, u, hloop, hdecodes, hcursor, hrest⟩ := decLoop_answered (w := s.leftover ++ frames.flatten)
    (frames := completeRanges (s.leftover ++ frames.flatten) (frames.map List.length)) (s := { s with sampleCursor := 0#32 })
    (finish (leftoverOf s.params.leftoverRule (s.leftover ++ frames.flatten) (frames.map List.length)))
    (by rw [hcomplete, ranges_length, List.length_map, hlen]) hanswers (by rw [BitVec.toNat_ofNat]; omega)
  rw [BitVec.toNat_ofNat, Nat.zero_mod, Nat.zero_add] at hcursor
  have hp : Processed frames.flatten (frames.map List.length) calls s u _ := ⟨hscan, hdecodes, rfl⟩
  obtain ⟨events, hlog, hcalls⟩ := hp.events
  have hframesOf : framesOf events = frames := by
    rw [framesOf, hcalls, hdecodes.frames, hcomplete]
    exact (map_rangeBytes_frames (future := []) (later := []) (by rw [hw]) (by rw [hw])).1
  have hcount : calls.length = frames.length := by
    rw [← hcalls, ← hframesOf, framesOf, List.length_map]
  refine ⟨_, events, ?_, hp.phase.trans hphase, hp.op.trans hop, hp.leftover.trans hcarried, ?_, ?_, hcount ▸ hp.frameCount,
    hp.segCount, hp.decAnswers.trans hrest, ?_, ?_, ?_, hlog, hframesOf⟩
  · have hfits : overCapacity s.params.wbufCap (s.leftover.length + frames.flatten.length) = false := by
      rwa [hleft, List.length_nil, Nat.zero_add]
    rw [exec_chunk_demux hop hphase (flatten_ne_nil hne hframes), process_scanned hfits hscan, hloop]
    refine finish_fits ?_
    rw [hcursor, hdecodes.frame]
    exact hroom
  · rw [hp.leftoverLen, hp.leftover, hcarried]
    rfl
  · rw [hp.sampleCursor, hcursor]
  · rw [hp.frame]
  · rw [hp.frame]
  · rw [hp.frame]

end Sys2Proof.Machine

/-! SUPPORT. What a transaction leaves of the port log and of the draws: what CORE did on its ports stays there (R60, R168). -/

namespace Sys2Proof.Machine

/-! ## The log and the draws -/

theorem beginProcess_ports (c : List Byte) (s : State) : (beginProcess c s).log = s.log ∧ (beginProcess c s).draws = s.draws := by
  rcases beginProcess_cases c s with ⟨-, e⟩ | ⟨-, e⟩ <;> rw [e] <;> exact ⟨rfl, rfl⟩

theorem skipTag_ports (r : Nat) (c : List Byte) (s : State) : (skipTag r c s).log = s.log ∧ (skipTag r c s).draws = s.draws := by
  rcases skipTag_cases r c s with ⟨-, e⟩ | ⟨-, e⟩ <;> rw [e]
  · exact beginProcess_ports (c.drop r) { s with tagRemain := 0#29, phase := .demux }
  · exact ⟨rfl, rfl⟩

theorem applyTag_ports (r : Except FaultCode Nat) (c : List Byte) (s : State) :
    (applyTag r c s).log = s.log ∧ (applyTag r c s).draws = s.draws := by
  cases r with
  | error code => exact ⟨rfl, rfl⟩
  | ok len => exact skipTag_ports len c { s with tagLen := BitVec.ofNat 29 len }

theorem takeTransaction_ports (txn : Txn) (s : State) :
    (takeTransaction txn s).log = s.log ∧ (takeTransaction txn s).draws = s.draws := by
  rcases takeTransaction_cases txn s with ⟨-, e⟩ | ⟨code, -, e⟩ | ⟨-, e⟩ | ⟨data, -, -, -, e⟩ | ⟨data, -, -, -, e⟩ |
    ⟨data, -, -, -, e⟩ <;> rw [e]
  · exact ⟨rfl, rfl⟩
  · exact ⟨rfl, rfl⟩
  · exact ⟨rfl, rfl⟩
  · exact ⟨rfl, rfl⟩
  · exact skipTag_ports _ _ s
  · exact beginProcess_ports _ s

theorem applyHdr_ports (r : HdrResult) (p : Scan) (s : State) : (applyHdr r p s).log = s.log ∧ (applyHdr r p s).draws = s.draws := by
  cases r <;> exact ⟨rfl, rfl⟩

/-- `t` is no earlier than `s`: nothing is taken back from the log, and no draw is undone. -/
structure Later (s t : State) : Prop where
  log : s.log <:+ t.log
  draws : s.draws ≤ t.draws

theorem Later.of_same {s t : State} (h : t.log = s.log ∧ t.draws = s.draws) : Later s t :=
  ⟨h.1 ▸ List.suffix_rfl, h.2.ge⟩

/-- One more port event. -/
theorem Later.of_event {s t : State} {e : PortEvent} (hlog : t.log = e :: s.log) (hdraws : s.draws ≤ t.draws) : Later s t :=
  ⟨hlog ▸ List.suffix_cons e s.log, hdraws⟩

theorem Later.trans {s t u : State} (hst : Later s t) (htu : Later t u) : Later s u :=
  ⟨hst.log.trans htu.log, hst.draws.trans htu.draws⟩

/-- A DEC call is one event and one draw, whatever its answer (R168, R169). -/
theorem decStep_later {d : Dispatching} {s t : State} (h : decStep d s = .next t) : Later s t := by
  rcases decStep_next h with ⟨k, -, rfl⟩ | ⟨-, rfl⟩
  · rcases acceptSamples_cases k d (dropAnswer (emit (.dec (nextCall d s)) s)) with ⟨-, e⟩ | ⟨-, e⟩ <;> rw [e] <;>
      exact .of_event rfl (Nat.le_succ _)
  · exact .of_event rfl (Nat.le_succ _)

theorem interleave_later (d : Dispatching) (s : State) : Later s (interleave d s) := by
  rcases interleave_cases d s with ⟨-, e⟩ | ⟨-, e⟩ <;> rw [e]
  · exact .of_same ⟨rfl, rfl⟩
  · exact .of_event rfl (Nat.le_succ _)

theorem advance_later {s t : State} (h : advance s = .next t) : Later s t := by
  rcases advance_next h with ⟨-, rfl⟩ | ⟨txn, -, rfl⟩ | ⟨-, rfl⟩ | ⟨-, rfl⟩ | ⟨c, -, rfl⟩ | ⟨p, -, rfl⟩ | ⟨d, -, -, hdec⟩ |
    ⟨d, -, -, rfl⟩ | ⟨seg, newLeft, -, rfl⟩ | ⟨newLeft, -, rfl⟩
  · exact .of_same ⟨rfl, rfl⟩
  · exact .of_same (takeTransaction_ports txn s)
  · exact .of_event rfl le_rfl
  · exact .of_event rfl le_rfl
  · exact .of_same (applyTag_ports _ c s)
  · exact .of_same (applyHdr_ports _ p s)
  · exact decStep_later hdec
  · exact interleave_later d s
  · exact .of_event rfl le_rfl
  · exact .of_same ⟨rfl, rfl⟩

/-! ## What a CHUNK leaves unchanged -/

/-- What every small step keeps of a state `s` before a transaction: the registers and inputs no transaction writes, the log so far,
and the order of the engine's answers. -/
structure KeepsFrame (s t : State) : Prop where
  inputs : SameInputs s t
  later : Later s t
  answers : t.decAnswers <:+ s.decAnswers

theorem KeepsFrame.advance {s t u : State} (h : KeepsFrame s t) (hadvance : advance t = .next u) : KeepsFrame s u where
  inputs := h.inputs.trans (advance_sameInputs hadvance)
  later := h.later.trans (advance_later hadvance)
  answers := (advance_decAnswers hadvance).trans h.answers

/-- Settles O56: each small step of the CHUNK keeps the frame, and taking it does. -/
theorem chunkFrame : Obligations.ChunkFrame := by
  intro s t c h
  have hfresh : ∀ op, KeepsFrame s { s with op := op } := fun op =>
    ⟨⟨rfl, rfl, rfl, rfl, rfl⟩, .of_same ⟨rfl, rfl⟩, List.suffix_rfl⟩
  obtain ⟨-, hrun⟩ := betweenTransactions_next h
  obtain ⟨⟨hpcm, hparams, hrx, hhost, hresets⟩, ⟨⟨events, hlog⟩, hdraws⟩, ⟨used, hused⟩⟩ :=
    runTransaction_keeps (P := KeepsFrame s) (fun _ _ => KeepsFrame.advance) (hfresh s.op) (hfresh _) hrun
  exact ⟨hpcm, hparams, hrx, hhost, hresets, hdraws, ⟨events, hlog.symm⟩, ⟨used, hused.symm⟩⟩

end Sys2Proof.Machine

/-! SUPPORT. The reads and writes of the register window (R32, R211, R212). -/

namespace Sys2Proof.Machine

open Sys2Proof.Spec

/-- A read at an offset of the window is the port event of R211. -/
theorem exec_rd32_window {s : State} {a : Nat} (hop : s.op = .idle) (ha : windowOffset a = true) :
    exec (.rd32 a) s = .next (emit (.readData a (readRegister a s)) s) :=
  (betweenTransactions_idle hop _).trans (if_pos ha)

/-- A write of PCM_BUFFER_SIZE in TAG_HEAD writes it (R212). -/
theorem writeRegister_pcmBufferSize {s : State} (hphase : s.phase = .tagHead) (v : Word32) :
    writeRegister 0x20 v s = { s with pcmBufferSize := v } :=
  (if_neg (by simp)).trans (if_pos ⟨rfl, hphase⟩)

/-- STATUS as the sum of its fields (R32, R33). -/
theorem statusWord_toNat (s : State) :
    (statusWord s).toNat = (phaseCode s.phase).toNat + s.faultCode.toNat * 2 ^ 8 + s.faultCat.toNat * 2 ^ 16 := by
  simp only [statusWord, toNat_append_eq, BitVec.toNat_ofNat]
  omega

/-- A 29-bit register reads as its own value, the three upper bits 0 (R32). -/
theorem zeroExtended_toNat (x : BitVec 29) : (0#3 ++ x).toNat = x.toNat := by
  simp only [toNat_append_eq, BitVec.toNat_ofNat]
  omega

theorem outside_window_iff {a : Nat} : a % 4 ≠ 0 ∨ 0x3C < a ↔ ¬ windowOffset a = true := by
  rw [windowOffset_iff]
  omega

/-- Settles O5: a read in the window is one port event, with the register that stands at the offset. -/
theorem registerReadReturnsWindow : Obligations.RegisterReadReturnsWindow := by
  intro s a hop
  refine ⟨fun h4 hhigh => ⟨_, exec_rd32_window hop (windowOffset_iff.2 ⟨h4, hhigh⟩), ?_⟩,
    fun hout => exec_rd32_outside hop (outside_window_iff.1 hout)⟩
  refine ⟨?ctrl, ?status, ?tagLen, ?tagRemain, ?_, ?_, ?_, ?_, ?_, ?_, ?_, fun hreserved => readRegister_reserved hreserved s⟩
  case ctrl =>
    rintro rfl
    exact readRegister_ctrl s
  case status =>
    rintro rfl
    exact statusWord_toNat s
  case tagLen =>
    rintro rfl
    exact zeroExtended_toNat s.tagLen
  case tagRemain =>
    rintro rfl
    exact zeroExtended_toNat s.tagRemain
  all_goals
    rintro rfl
    rfl

/-- Settles O6: the clauses are those of R212's write, at an offset of the window. -/
theorem registerWriteEffects : Obligations.RegisterWriteEffects := by
  intro s a v hop
  refine ⟨fun hout => exec_wr32_outside v hop (outside_window_iff.1 hout), ?_, ?_, fun h4 hhigh hctrl hpcm => ?_⟩
  · rintro rfl hv
    rw [exec_wr32_window v hop rfl, writeRegister_ctrl_set hv]
    rfl
  · rintro rfl hphase
    rw [exec_wr32_window v hop rfl, writeRegister_pcmBufferSize hphase]
  · rw [exec_wr32_window v hop (windowOffset_iff.2 ⟨h4, hhigh⟩), writeRegister_ignored hctrl hpcm]

end Sys2Proof.Machine

/-! SUPPORT. A transaction between transactions, by what taking it does in each phase: a fault entry, the end of the stream, or nothing in
FAULTED (R204 to R209). -/

namespace Sys2Proof.Machine

open Sys2Proof.Spec

/-! ## A transaction between transactions -/

/-- A TXN8 row between transactions is its transaction as a whole (R58). -/
theorem exec_transaction {i : Instr} {txn : Txn} {s : State} (htxn : transactionOf i = some txn) (hop : s.op = .idle) :
    exec i s = runTransaction txn s := by
  rcases transactionOf_eq_some htxn with ⟨data, rfl, rfl⟩ | ⟨rfl, rfl⟩ | ⟨tag, rfl, rfl⟩ <;>
    exact betweenTransactions_idle hop _

theorem sendEnd_endStream (s : State) :
    sendEnd (endStream s) = { s with phase := .ended, op := .idle, log := .out .endOfStream :: s.log } := rfl

section
variable {i : Instr} {txn : Txn} {s : State} (htxn : transactionOf i = some txn) (hop : s.op = .idle)
include htxn hop

/-- In FAULTED a transaction is not taken (R208). -/
theorem exec_transaction_faulted (hphase : s.phase = .faulted) : exec i s = .next s :=
  (exec_transaction htxn hop).trans (runTransaction_faulted hphase)

/-- A transaction whose taking begins a fault entry leaves the state with that fault and nothing else (R222). -/
theorem exec_transaction_fault {code : FaultCode} (hphase : s.phase ≠ .faulted)
    (htake : takeTransaction txn { s with op := .received txn } = enterFault code 0 0#32 { s with op := .received txn }) :
    exec i s = .next (faultedWith (faultCodeBits code) (faultCategory code) s) := by
  rw [exec_transaction htxn hop, runTransaction_fault hphase htake, raise_eq_faultedWith, withOp_idle hop]

/-- A transaction whose taking ends the stream sends END and changes nothing else (R204). -/
theorem exec_transaction_end (hphase : s.phase ≠ .faulted)
    (htake : takeTransaction txn { s with op := .received txn } = endStream { s with op := .received txn }) :
    exec i s = .next { s with phase := .ended, log := .out .endOfStream :: s.log } := by
  obtain ⟨n, -, hrun⟩ := runTransaction_take txn hphase
  rw [exec_transaction htxn hop, hrun, htake, drive_endStream, sendEnd_endStream, ← hop]

end

/-! ## What taking a transaction does in each phase -/

theorem takeTransaction_ended (txn : Txn) {s : State} (hphase : s.phase = .ended) :
    takeTransaction txn s = enterFault .protocol 0 0#32 s := by
  cases txn <;> simp only [takeTransaction, takeChunk, takeEos, takeIllegal, hphase]

theorem takeIllegal_protocol {s : State} (hphase : s.phase ≠ .faulted) : takeIllegal s = enterFault .protocol 0 0#32 s :=
  (takeIllegal_cases s).resolve_left fun h => hphase h.1

/-- A CHUNK of no data is illegal (R209). -/
theorem takeChunk_nil {s : State} (hphase : s.phase ≠ .faulted) : takeChunk [] s = enterFault .protocol 0 0#32 s := by
  rcases takeChunk_cases [] s with ⟨h, -⟩ | h | ⟨h, -⟩ | ⟨h, -⟩ | ⟨h, -⟩
  · exact absurd h hphase
  · exact h
  all_goals exact absurd rfl h

theorem takeEos_endStream {s : State} (hphase : s.phase = .tagHead ∨ s.phase = .demux) : takeEos s = endStream s := by
  rcases hphase with h | h <;> simp only [takeEos, h]

theorem takeEos_tagSkip {s : State} (hphase : s.phase = .tagSkip) :
    takeEos s = if 0 < s.tagRemain.toNat then enterFault .malformedTag 0 0#32 s else endStream s := by
  simp only [takeEos, hphase]

theorem takeChunk_tagHead {c : List Byte} {s : State} (hphase : s.phase = .tagHead) (hc : c ≠ []) :
    takeChunk c s = { s with op := .tagCheck c } := by
  simp only [takeChunk, hphase, if_neg hc]

theorem takeChunk_tagSkip {c : List Byte} {s : State} (hphase : s.phase = .tagSkip) (hc : c ≠ []) :
    takeChunk c s = skipTag s.tagRemain.toNat c s := by
  simp only [takeChunk, hphase, if_neg hc]

/-- Settles O10: taking either transaction is fault entry with PROTOCOL. -/
theorem illegalTransactionFaults : Obligations.IllegalTransactionFaults := fun _ _ hop hphase =>
  ⟨exec_transaction_fault (txn := .illegal _) (code := .protocol) rfl hop hphase (takeIllegal_protocol hphase),
    exec_transaction_fault (txn := .chunk []) (code := .protocol) rfl hop hphase (takeChunk_nil hphase)⟩

/-- Settles O11: in ENDED taking any transaction is fault entry with PROTOCOL. -/
theorem transactionAfterEndFaults : Obligations.TransactionAfterEndFaults := by
  intro s data tag hop hphase
  have hfault : ∀ {i txn}, transactionOf i = some txn → exec i s = .next (faultedWith 0x0A#8 4#4 s) := fun htxn =>
    exec_transaction_fault (code := .protocol) htxn hop (by simp [hphase]) (takeTransaction_ended _ hphase)
  exact ⟨hfault rfl, hfault rfl, hfault rfl⟩

/-- Settles O12: taking EOS in TAG_HEAD ends the stream. -/
theorem eosInTagHead : Obligations.EosInTagHead := fun _ hop hphase =>
  exec_transaction_end rfl hop (by simp [hphase]) (takeEos_endStream (.inl hphase))

/-- Settles O14: taking EOS in DEMUX ends the stream. -/
theorem eosInDemux : Obligations.EosInDemux := fun _ hop hphase =>
  exec_transaction_end rfl hop (by simp [hphase]) (takeEos_endStream (.inr hphase))

/-- Settles O13: TAG_REMAIN decides between fault entry with MALFORMED_TAG and the end of the stream. -/
theorem eosInTagSkip : Obligations.EosInTagSkip := by
  intro s hop hphase
  have hphase_ne : s.phase ≠ .faulted := by simp [hphase]
  have htake := takeEos_tagSkip (s := { s with op := .received .eos }) hphase
  refine ⟨fun hmissing => ?_, fun hnone => ?_⟩
  · exact exec_transaction_fault (txn := .eos) (code := .malformedTag) rfl hop hphase_ne (htake.trans (if_pos hmissing))
  · exact exec_transaction_end rfl hop hphase_ne (htake.trans (if_neg hnone.not_gt))

end Sys2Proof.Machine

/-! SUPPORT. A CHUNK in TAG_HEAD, TAG_SKIP and DEMUX is the pseudocode of R103 and R160 (R201 to R203). -/

namespace Sys2Proof.Machine

open Sys2Proof.Spec

/-- TAGSKIP after R is known, run to its end (R103). -/
theorem runToEnd_skipTag (r : Nat) (c : List Byte) (s : State) :
    runToEnd (skipTag r c s) = tagSkip r c { s with op := .idle } := by
  rcases skipTag_cases r c s with ⟨hr, e⟩ | ⟨hr, e⟩ <;> rw [e, tagSkip]
  · rw [if_pos hr, runToEnd_beginProcess]
  · rw [if_neg hr.not_gt, runToEnd_idle rfl]

/-- A CHUNK in TAG_HEAD is what ID3LEN's result does, run to its end (R101, R201). -/
theorem exec_chunk_tagHead {s : State} {c : List Byte} (hop : s.op = .idle) (hphase : s.phase = .tagHead) (hc : c ≠ []) :
    exec (.chunk c) s = runToEnd (applyTag (id3Len c) c { s with op := .tagCheck c }) := by
  have htake : takeTransaction (.chunk c) { s with op := .received (.chunk c) } = { s with op := .tagCheck c } :=
    takeChunk_tagHead (s := { s with op := .received (.chunk c) }) hphase hc
  rw [exec_transaction rfl hop, runTransaction_eq_runToEnd _ (by simp [hphase]), htake,
    runToEnd_of_advance Op.noConfusion rfl]

/-- Settles O35: the small steps of a PROCESS are the loops of R160. -/
theorem chunkInDemuxIsProcess : Obligations.ChunkInDemuxIsProcess := fun _ _ => exec_chunk_demux

/-- Settles O36: the result of ID3LEN decides between fault entry and the rest of TAGSKIP. -/
theorem chunkInTagHeadIsTagSkip : Obligations.ChunkInTagHeadIsTagSkip := by
  intro s c hop hphase hc
  rw [exec_chunk_tagHead hop hphase hc]
  refine ⟨fun code h => ?_, fun r h => ?_⟩ <;> rw [h, applyTag]
  · exact runToEnd_enterFault code 0 0#32 _
  · rw [measuredTag, runToEnd_skipTag, ← hop]

/-- Settles O37: taking the CHUNK is TAGSKIP with R = TAG_REMAIN. -/
theorem chunkInTagSkipIsTagSkip : Obligations.ChunkInTagSkipIsTagSkip := by
  intro s c hop hphase hc
  have htake : takeTransaction (.chunk c) { s with op := .received (.chunk c) } =
      skipTag s.tagRemain.toNat c { s with op := .received (.chunk c) } :=
    takeChunk_tagSkip (s := { s with op := .received (.chunk c) }) hphase hc
  rw [exec_transaction rfl hop, runTransaction_eq_runToEnd _ (by simp [hphase]), htake, runToEnd_skipTag]
  exact congrArg (tagSkip _ c) (withOp_idle hop)

end Sys2Proof.Machine

/-! SUPPORT. FAULTED keeps everything and serves only the host until reset (R208, R227). -/

namespace Sys2Proof.Machine

open Sys2Proof.Spec

/-- Settles O9: no transaction is taken in FAULTED, and the host has no line. -/
theorem faultedTakesNoTransaction : Obligations.FaultedTakesNoTransaction := by
  intro s data tag hop hphase
  have hstays : ∀ {i txn}, transactionOf i = some txn → exec i s = .next s := fun htxn =>
    exec_transaction_faulted htxn hop hphase
  refine ⟨hstays rfl, hstays rfl, hstays rfl, fun hresets hhost => ?_⟩
  have hselect : select s = .wait := (select_faulted hop hphase).trans (by simp only [selectHost, hhost])
  simp only [step, sequenceStep, hresets, quietStep, perform, hselect]

/-- The host's next line, if there is one: an access, bytes that arrive behind those on the port, or a line without a meaning. -/
theorem selectHost_line (s : State) :
    (∃ op rest i, s.host = op :: rest ∧ decodeAccess op = .ok i ∧ selectHost s = .run i { s with host := rest }) ∨
    (∃ bytes rest, selectHost s = .arrive { s with rx := s.rx ++ bytes, host := rest }) ∨
    selectHost s = .wait ∨ ∃ r, selectHost s = .refuse r := by
  unfold selectHost
  split
  · exact .inr (.inr (.inl rfl))
  · exact .inr (.inl ⟨_, _, rfl⟩)
  · split
    · exact .inl ⟨_, _, _, ‹_›, ‹_›, rfl⟩
    · exact .inr (.inr (.inr ⟨_, rfl⟩))

/-- What a step from FAULTED between transactions can lead to (R208, R227). -/
inductive FaultedEffect (s : State) : State → Prop
  /-- A reset comes; the log stays. -/
  | reset (host : List HostOp) (resets : List Nat) (hcomes : ResetComes s) :
      FaultedEffect s (resetCore { s with host := host, resets := resets })
  /-- CORE waits, ignores a write, or bytes arrive behind those it has not taken. -/
  | waits (more : List Byte) (host : List HostOp) (resets : List Nat) :
      FaultedEffect s { s with rx := s.rx ++ more, host := host, resets := resets }
  /-- A register is read. -/
  | reads (a : Nat) (v : Word32) (host : List HostOp) (resets : List Nat) :
      FaultedEffect s { s with host := host, resets := resets, log := .readData a v :: s.log }

theorem FaultedEffect.unchanged (s : State) (host : List HostOp) (resets : List Nat) :
    FaultedEffect s { s with host := host, resets := resets } := by
  simpa only [List.append_nil] using FaultedEffect.waits (s := s) [] host resets

section
variable {s t : State} (hop : s.op = .idle) (hphase : s.phase = .faulted)
include hop hphase

/-- A host access in FAULTED is a read, a reset, or an ignored write (R211, R212). -/
theorem exec_access_faulted {op : HostOp} {rest : List HostOp} {i : Instr} (resets : List Nat) (hline : s.host = op :: rest)
    (hi : decodeAccess op = .ok i) (h : exec i { s with host := rest } = .next t) :
    FaultedEffect s { t with resets := resets } := by
  rcases decodeAccess_ok hi with ⟨a, rfl, rfl⟩ | ⟨a, v, rfl, rfl⟩ | ⟨rfl, rfl⟩
  · obtain ⟨-, h⟩ := betweenTransactions_next h
    split at h <;> cases h
    exact .reads a _ rest resets
  · obtain ⟨-, h⟩ := betweenTransactions_next h
    split at h <;> cases h
    rcases writeRegister_cases a v { s with host := rest } with ⟨rfl, hv, e⟩ | ⟨-, hhead, -⟩ | e
    · rw [e]
      exact .reset rest resets (.inr ⟨hop, .inr ⟨v, by simp [hline], hv⟩⟩)
    · exact absurd (hphase.symm.trans hhead) (by decide)
    · rw [e]
      exact .unchanged s rest resets
  · cases h
    exact .reset rest resets (.inr ⟨hop, .inl (by simp [hline])⟩)

/-- In FAULTED only the host's next line is served (R208). -/
theorem perform_faulted {run : Instr → State → Answer} (hrun : RunsInstructions run) (resets : List Nat)
    (h : perform run s = .next t) : FaultedEffect s { t with resets := resets } := by
  rw [perform, select_faulted hop hphase] at h
  rcases selectHost_line s with ⟨op, rest, i, hline, hi, e⟩ | ⟨bytes, rest, e⟩ | e | ⟨r, e⟩ <;> rw [e] at h
  · exact exec_access_faulted hop hphase resets hline hi ((hrun.other _ _ (transactionOf_decodeAccess hi)).symm.trans h)
  · cases h
    exact .waits bytes rest resets
  · cases h
    exact .unchanged s s.host resets
  · cases h

/-- Every step in FAULTED between transactions that answers a next state is one of the effects. -/
theorem step_faulted (h : step s = .next t) : FaultedEffect s t := by
  rcases step_next h with ⟨-, hquiet⟩ | ⟨later, hresets, rfl⟩ | ⟨k, later, u, -, hsmall, rfl⟩
  · exact perform_faulted hop hphase exec_runsInstructions t.resets hquiet
  · exact .reset s.host later (.inl (by simp [hresets]))
  · rw [smallStep, if_pos hop] at hsmall
    exact perform_faulted hop hphase beginInstr_runsInstructions _ hsmall

end

/-- Settles O18: a reset comes, CORE waits with all its state, or a register is read. -/
theorem faultedUntilReset : Obligations.FaultedUntilReset := by
  intro s t hop hphase h
  cases step_faulted hop hphase h with
  | reset host resets hcomes => exact .inl ⟨hcomes, resetCore_afterReset _, rfl⟩
  | waits more host resets => exact .inr (by simp [hop, hphase])
  | reads a v host resets => exact .inr (by simp [hop, hphase])

end Sys2Proof.Machine

/-! SUPPORT. The order of the phases, in which every step but a reset goes forward or stays (R200). -/

namespace Sys2Proof.Machine

open Sys2Proof.Spec

/-! ## The order of the phases -/

/-- In the order TAG_HEAD, TAG_SKIP, DEMUX, ENDED, FAULTED, which is that of R21's encoding, `q` does not come before `p`. -/
abbrev Phase.NotBefore (p q : Phase) : Prop := (phaseCode p).toNat ≤ (phaseCode q).toNat

theorem Phase.NotBefore.of_eq {p q : Phase} (h : q = p) : p.NotBefore q := h ▸ le_rfl

theorem Phase.NotBefore.trans {p q r : Phase} (hpq : p.NotBefore q) (hqr : q.NotBefore r) : p.NotBefore r := le_trans hpq hqr

/-- The phases TAGSKIP starts in are not after those it goes to (R103). -/
theorem Phase.notBefore_of_tag {p q : Phase} (hp : p = .tagHead ∨ p = .tagSkip) (hq : q = .tagSkip ∨ q = .demux) :
    p.NotBefore q := by
  rcases hp with rfl | rfl <;> rcases hq with rfl | rfl <;> decide

theorem Phase.notBefore_faulted (p : Phase) : p.NotBefore .faulted := by
  cases p <;> decide

theorem Phase.notBefore_ended {p : Phase} (h : p ≠ .faulted) : p.NotBefore .ended := by
  revert h
  cases p <;> decide

theorem Phase.NotBefore.of_kept_or_faulted {p q : Phase} (h : q = p ∨ q = .faulted) : p.NotBefore q :=
  h.elim .of_eq fun e => e ▸ p.notBefore_faulted

/-- The table's ten rows are the pairs of phases of which the second comes later (R200). -/
theorem Phase.NotBefore.transition {p q : Phase} (h : p.NotBefore q) :
    q = p ∨ (p, q) ∈
      [(Phase.tagHead, Phase.tagSkip), (.tagHead, .demux), (.tagHead, .ended), (.tagHead, .faulted), (.tagSkip, .demux),
        (.tagSkip, .ended), (.tagSkip, .faulted), (.demux, .ended), (.demux, .faulted), (.ended, .faulted)] := by
  revert h
  cases p <;> cases q <;> decide

/-! ## No small step goes back -/

/-- PROCESS begins in the phase it finds, or faults (R161, R162). -/
theorem beginProcess_phase (c : List Byte) (s : State) :
    (beginProcess c s).phase = s.phase ∨ (beginProcess c s).phase = .faulted := by
  rcases beginProcess_cases c s with ⟨-, e⟩ | ⟨-, e⟩ <;> rw [e]
  · exact .inr rfl
  · exact .inl rfl

/-- TAGSKIP goes from the tag on to DEMUX, or stays in the tag (R103, R104). -/
theorem skipTag_notBefore (r : Nat) (c : List Byte) {s : State} (hphase : s.phase = .tagHead ∨ s.phase = .tagSkip) :
    s.phase.NotBefore (skipTag r c s).phase := by
  rcases skipTag_cases r c s with ⟨-, e⟩ | ⟨-, e⟩ <;> rw [e]
  · exact (Phase.notBefore_of_tag hphase (.inr rfl)).trans
      (.of_kept_or_faulted (beginProcess_phase (c.drop r) { s with tagRemain := 0#29, phase := .demux }))
  · exact Phase.notBefore_of_tag hphase (.inl rfl)

theorem takeTransaction_notBefore (txn : Txn) (s : State) : s.phase.NotBefore (takeTransaction txn s).phase := by
  rcases takeTransaction_cases txn s with ⟨-, e⟩ | ⟨code, -, e⟩ | ⟨hphase, e⟩ | ⟨data, -, -, -, e⟩ | ⟨data, -, -, hphase, e⟩ |
    ⟨data, -, -, -, e⟩ <;> rw [e]
  · exact s.phase.notBefore_faulted
  · exact Phase.notBefore_ended hphase
  · exact skipTag_notBefore _ data (.inr hphase)
  · exact .of_kept_or_faulted (beginProcess_phase data s)

theorem applyTag_notBefore (r : Except FaultCode Nat) (c : List Byte) {s : State} (hphase : s.phase = .tagHead) :
    s.phase.NotBefore (applyTag r c s).phase := by
  cases r with
  | error code => exact s.phase.notBefore_faulted
  | ok len => exact skipTag_notBefore len c (s := { s with tagLen := BitVec.ofNat 29 len }) (.inl hphase)

theorem applyHdr_phase (r : HdrResult) (p : Scan) (s : State) :
    (applyHdr r p s).phase = s.phase ∨ (applyHdr r p s).phase = .faulted := by
  cases r with
  | short => exact .inl rfl
  | nosync => exact .inl rfl
  | frame size => exact .inl rfl
  | bad code h => exact .inr rfl

theorem decStep_phase {d : Dispatching} {s t : State} (h : decStep d s = .next t) :
    t.phase = s.phase ∨ t.phase = .faulted := by
  rcases decStep_next h with ⟨k, -, rfl⟩ | ⟨-, rfl⟩
  · rcases acceptSamples_cases k d (dropAnswer (emit (.dec (nextCall d s)) s)) with ⟨-, e⟩ | ⟨-, e⟩ <;> rw [e]
    · exact .inr rfl
    · exact .inl rfl
  · exact .inr rfl

theorem interleave_phase (d : Dispatching) (s : State) :
    (interleave d s).phase = s.phase ∨ (interleave d s).phase = .faulted := by
  rcases interleave_cases d s with ⟨-, e⟩ | ⟨-, e⟩ <;> rw [e]
  · exact .inr rfl
  · exact .inl rfl

/-- Under the invariant no small step goes back in the order of the phases: the ID3v2 check is made in TAG_HEAD. -/
theorem CoreInv.advance_notBefore {s t : State} (hs : CoreInv s) (h : Machine.advance s = .next t) :
    s.phase.NotBefore t.phase := by
  rcases advance_next h with ⟨-, rfl⟩ | ⟨txn, -, rfl⟩ | ⟨-, rfl⟩ | ⟨-, rfl⟩ | ⟨c, hop, rfl⟩ | ⟨p, -, rfl⟩ | ⟨d, -, -, hdec⟩ |
    ⟨d, -, -, rfl⟩ | ⟨seg, newLeft, -, rfl⟩ | ⟨newLeft, -, rfl⟩
  · exact .of_eq rfl
  · exact takeTransaction_notBefore txn s
  · exact .of_eq rfl
  · exact .of_eq rfl
  · obtain ⟨hphase, -⟩ := hs.opInv hop
    exact applyTag_notBefore _ c hphase
  · exact .of_kept_or_faulted (applyHdr_phase _ p s)
  · exact .of_kept_or_faulted (decStep_phase hdec)
  · exact .of_kept_or_faulted (interleave_phase d s)
  · exact .of_eq rfl
  · exact .of_eq rfl

theorem CoreInv.drive_notBefore {n : Nat} {s t : State} (hs : CoreInv s) (h : Machine.drive n s = .next t) :
    s.phase.NotBefore t.phase :=
  (drive_keeps (P := fun u => CoreInv u ∧ s.phase.NotBefore u.phase)
    (fun _ _ ⟨hu, hle⟩ hadvance => ⟨hu.advance hadvance, hle.trans (hu.advance_notBefore hadvance)⟩) ⟨hs, .of_eq rfl⟩ h).2

theorem finishFault_phase (s : State) : (finishFault s).phase = s.phase := by
  unfold finishFault
  split <;> rfl

/-- A step goes back in the order of the phases only where a reset comes. -/
theorem CoreInv.step_notBefore {s t : State} (hs : CoreInv s) (h : Machine.step s = .next t) :
    s.phase.NotBefore t.phase ∨ (ResetComes s ∧ AfterReset s t) := by
  cases step_effect h with
  | reset hcomes hafter => exact .inr ⟨hcomes, hafter⟩
  | pcmWrite v rest resets hop hphase hline => exact .inl (.of_eq rfl)
  | outside rx host resets log => exact .inl (.of_eq rfl)
  | small u resets hadvance =>
    have hle := hs.advance_notBefore hadvance
    exact .inl hle
  | row u resets hadvance =>
    have hle := (hs.advance_notBefore hadvance).trans (.of_eq (finishFault_phase u))
    exact .inl hle
  | transaction i txn rest n u resets hop hphase hdecode htxn hdrive =>
    have hreceived : CoreInv { s with rx := rest, op := .received txn } := { hs with opOk := hphase }
    have hle := hreceived.drive_notBefore hdrive
    exact .inl hle

/-- Settles O15: but for a reset no step goes back in the order of the phases, and every pair of phases in that order is a row. -/
theorem phaseTransitions : Obligations.PhaseTransitions := fun _ _ hs h =>
  (hs.step_notBefore h).elim (fun hle => hle.transition.imp_right .inr) fun hreset => .inr (.inl hreset)

end Sys2Proof.Machine

/-! SUPPORT. What a fault leaves: the record of fault entry (R220, R222), and where a CHUNK in DEMUX can fault, said once: before its
scan, at a header of its scan, at a DEC call, or at the interleave check (R223, R226). -/

namespace Sys2Proof.Machine

open Sys2Proof.Spec

/-! ## The record of fault entry -/

/-- Settles O17: each row of R220 has the code and the category that fault entry writes. -/
theorem faultEntryWritesRecord : Obligations.FaultEntryWritesRecord := by
  intro s off h hoff row hrow
  obtain ⟨hcode, hcat⟩ : row.2.1 = faultCodeBits row.1 ∧ row.2.2 = faultCategory row.1 := by
    revert row
    decide
  rw [hcode, hcat]
  exact ⟨enterFault_eq hoff row.1 h s, raise_eq hoff row.1 h s⟩

/-! ## Where a CHUNK in DEMUX faults -/

/-- The DEC loop from `s` faulted in `t` at the call for the frame `z` bytes long at `a`, after `calls` were answered OK(k) and led to
`u` (R169). -/
def CallFaults (w : List Byte) (code : FaultCode) (a z : Nat) (calls : List DecCall) (s u t : State) : Prop :=
  (code = .capacityDecode ∨ code = .capacityCursor) ∧ (∃ frames, Decodes w frames calls s u) ∧
    t = raise code a (hdrWord w a) (called w a z u)

/-- A DEC loop that answers a state called every frame and went on to what follows, or faulted at a call (R168, R169). -/
theorem decLoop_cases {w : List Byte} {frames : List (Nat × Nat)} {s t : State} {after : State → Answer}
    (h : decLoop w frames s after = .next t) :
    (∃ calls u, Decodes w frames calls s u ∧ after u = .next t) ∨ ∃ code a z calls u, CallFaults w code a z calls s u t := by
  induction frames generalizing s with
  | nil => exact .inl ⟨[], s, .nil w s, h⟩
  | cons range frames ih =>
    obtain ⟨a, z⟩ := range
    cases hanswer : nextAnswer s with
    | ok k =>
      cases hcursor : cursorOverflows s.sampleCursor k with
      | false =>
        rw [decLoop_ok hanswer hcursor] at h
        rcases ih h with ⟨calls, u, hu, hafter⟩ | ⟨code, b, y, calls, u, hcode, ⟨done, hu⟩, ht⟩
        · exact .inl ⟨_, u, hu.cons, hafter⟩
        · exact .inr ⟨code, b, y, _, u, hcode, ⟨_, hu.cons⟩, ht⟩
      | true =>
        rw [decLoop_overflow hanswer hcursor] at h
        exact .inr ⟨_, a, z, [], s, .inr rfl, ⟨_, .nil w s⟩, (Host.Outcome.next.inj h).symm⟩
    | capacity =>
      rw [decLoop_capacity hanswer] at h
      exact .inr ⟨_, a, z, [], s, .inl rfl, ⟨_, .nil w s⟩, (Host.Outcome.next.inj h).symm⟩
    | otherOutcome =>
      rw [decLoop_otherOutcome hanswer] at h
      cases h
    | wroteBuffer =>
      rw [decLoop_wroteBuffer hanswer] at h
      cases h

/-- The end of a PROCESS faults only at the interleave check (R170). -/
theorem finish_faulted {newLeft : List Byte} {s t : State} (hs : s.phase ≠ .faulted) (h : finish newLeft s = .next t)
    (ht : t.phase = .faulted) : t = raise .capacityInterleave 0 0#32 s := by
  unfold finish at h
  split at h
  · exact (Host.Outcome.next.inj h).symm
  · cases h
    exact absurd ht hs

/-- Fault entry with `code` begins in `u`, after the DEC calls `calls`, in a CHUNK of `c` taken in `s`, a state of DEMUX. -/
inductive ChunkFault (c : List Byte) (s : State) : FaultCode → List DecCall → State → Prop
  /-- An empty CHUNK (R209). -/
  | empty : c = [] → ChunkFault c s .protocol [] s
  /-- The working buffer does not fit (R161). -/
  | overflow : overCapacity s.params.wbufCap (s.leftover.length + c.length) = true → ChunkFault c s .bufferOverflow [] s
  /-- A header of the scan (R163). -/
  | header {code : FaultCode} {off : Nat} {h : Word32} :
    scanLoop (s.leftover ++ c) ((s.leftover ++ c).length + 1) 0 [] = .error (code, off, h) →
    ChunkFault c s code [] { s with sampleCursor := 0#32 }
  /-- A DEC call after those that were answered OK(k) (R169). -/
  | call {code : FaultCode} {frames : List (Nat × Nat)} {calls : List DecCall} {u : State} (a z : Nat) :
    code = .capacityDecode ∨ code = .capacityCursor →
    Decodes (s.leftover ++ c) frames calls { s with sampleCursor := 0#32 } u →
    ChunkFault c s code
      (calls ++ [{ buf := s.leftover ++ c, start := a, size := z, cursor := u.sampleCursor, pcmSize := u.pcmBufferSize }])
      (called (s.leftover ++ c) a z u)
  /-- The interleave check after all DEC calls (R170). -/
  | interleave {frames : List (Nat × Nat)} {calls : List DecCall} {u : State} :
    Decodes (s.leftover ++ c) frames calls { s with sampleCursor := 0#32 } u → ChunkFault c s .capacityInterleave calls u

/-- A PROCESS that faults does so at one of its checks (R160). -/
theorem process_faulted {c : List Byte} {s t : State} (hs : s.phase ≠ .faulted) (h : process c s = .next t)
    (ht : t.phase = .faulted) : ∃ code off hdr calls u, ChunkFault c s code calls u ∧ t = raise code off hdr u := by
  cases hcap : overCapacity s.params.wbufCap (s.leftover.length + c.length) with
  | true =>
    rw [process_overflows hcap] at h
    exact ⟨_, _, _, _, _, .overflow hcap, (Host.Outcome.next.inj h).symm⟩
  | false =>
    cases hscan : scanLoop (s.leftover ++ c) ((s.leftover ++ c).length + 1) 0 [] with
    | error fault =>
      rw [process_eq, if_neg (ne_true_of_eq_false hcap), hscan] at h
      exact ⟨_, _, _, _, _, .header hscan, (Host.Outcome.next.inj h).symm⟩
    | ok sizes =>
      rw [process_scanned hcap hscan] at h
      rcases decLoop_cases h with ⟨calls, u, hu, hfinish⟩ | ⟨code, a, z, calls, u, hcode, ⟨_, hu⟩, rfl⟩
      · have hphase : u.phase ≠ .faulted := by
          rw [hu.frame]
          exact hs
        exact ⟨_, _, _, _, _, .interleave hu, finish_faulted hphase hfinish ht⟩
      · exact ⟨_, _, _, _, _, .call a z hcode hu, rfl⟩

/-- A CHUNK in DEMUX that faults is fault entry in one of the states of `ChunkFault`. -/
theorem exec_chunk_faulted {s t : State} {c : List Byte} (hop : s.op = .idle) (hphase : s.phase = .demux)
    (h : exec (.chunk c) s = .next t) (ht : t.phase = .faulted) :
    ∃ code off hdr calls u, ChunkFault c s code calls u ∧ t = raise code off hdr u := by
  have hs : s.phase ≠ .faulted := by simp [hphase]
  by_cases hc : c = []
  · refine ⟨.protocol, 0, 0#32, [], s, .empty hc, ?_⟩
    subst hc
    rw [exec_transaction_fault (txn := .chunk []) rfl hop hs (takeChunk_nil hs)] at h
    rw [raise_eq_faultedWith, withOp_idle hop]
    exact (Host.Outcome.next.inj h).symm
  · exact process_faulted hs ((exec_chunk_demux hop hphase hc).symm.trans h) ht

/-! ## What has happened when a CHUNK faults -/

section
variable {c : List Byte} {s u : State} {code : FaultCode} {calls : List DecCall} (h : ChunkFault c s code calls u)
include h

/-- Only the cursor, FRAME_COUNT and what the DEC calls do outside CORE differ: nothing is committed (R223). -/
theorem ChunkFault.frame : u = { s with
    sampleCursor := u.sampleCursor, frameCount := u.frameCount, decAnswers := u.decAnswers, draws := u.draws, log := u.log } := by
  cases h with
  | empty | overflow | header => rfl
  | call a z hcode hu =>
    rw [called, hu.frame]
    rfl
  | interleave hu => exact hu.frame

/-- There is no ILV call and no segment (R223). -/
theorem ChunkFault.log : u.log = (calls.map PortEvent.dec).reverse ++ s.log := by
  cases h with
  | empty | overflow | header => rfl
  | call a z hcode hu =>
    rw [List.map_append, List.reverse_append, List.append_assoc]
    exact congrArg _ hu.log
  | interleave hu => exact hu.log

/-- The call that faulted, if one did, is not counted (R169). -/
theorem ChunkFault.frameCount :
    ∃ n, u.frameCount = s.frameCount + BitVec.ofNat 32 n ∧ n ≤ calls.length ∧ calls.length ≤ n + 1 := by
  cases h with
  | empty | overflow | header => exact ⟨0, (BitVec.add_zero _).symm, le_rfl, zero_le_one⟩
  | call a z hcode hu =>
    rw [List.length_append, List.length_singleton]
    exact ⟨_, hu.frameCount, Nat.le_succ _, le_rfl⟩
  | interleave hu => exact ⟨_, hu.frameCount, le_rfl, Nat.le_succ _⟩

/-- A version, layer, bitrate or sample-rate fault is raised by the scan, which no DEC call precedes (R226). -/
theorem ChunkFault.eq_of_header
    (hcode : faultCodeBits code = 0x02#8 ∨ faultCodeBits code = 0x03#8 ∨ faultCodeBits code = 0x04#8) :
    u = { s with sampleCursor := 0#32 } := by
  cases h with
  | header => rfl
  | call a z hcapacity => rcases hcapacity with rfl | rfl <;> exact absurd hcode (by decide)
  | empty | overflow | interleave => exact absurd hcode (by decide)

end

/-! ## The obligations of a CHUNK that faults -/

/-- Settles O19: fault entry begins in a state in which only DEC calls have been made, and writes none of the registers named. -/
theorem faultKeepsCarriedState : Obligations.FaultKeepsCarriedState := by
  intro s t c hop hphase h ht
  obtain ⟨code, off, hdr, calls, u, hfault, rfl⟩ := exec_chunk_faulted hop hphase h ht
  obtain ⟨n, hcount, hle, hlast⟩ := hfault.frameCount
  refine ⟨?_, ?_, ?_, ?_, ?_, ?_, raise_op code off hdr u, calls, n, congrArg _ hfault.log, hcount, hle, hlast⟩
  all_goals
    rw [hfault.frame]
    rfl

/-- Settles O20: fault entry begins in the state of the scan. -/
theorem badHeaderFaultsBeforeDecoding : Obligations.BadHeaderFaultsBeforeDecoding := by
  intro s t c hop hphase h ht hcode
  obtain ⟨code, off, hdr, calls, u, hfault, rfl⟩ := exec_chunk_faulted hop hphase h ht
  obtain rfl := hfault.eq_of_header hcode
  exact ⟨rfl, rfl, rfl, rfl⟩

end Sys2Proof.Machine

/-! SUPPORT. The reset input: the state it leaves, the step in which it acts, and a transaction it abandons between two small steps
(R250, R251). -/

namespace Sys2Proof.Machine

open Sys2Proof.Spec

/-! ## The state after reset -/

theorem resetCore_reset : resetCore State.reset = State.reset := rfl

/-- Settles O55: `State.reset` is a state a reset leaves, and every such state meets the invariant. -/
theorem resetMeetsInvariant : Obligations.ResetMeetsInvariant := by
  unfold Obligations.ResetMeetsInvariant
  rw [← resetCore_reset]
  exact .of_afterReset (resetCore_afterReset State.reset)

/-- Between transactions CORE waits when there is nothing on the input port, no line of the host and no reset input to come (R230). -/
theorem step_waits {s : State} (hop : s.op = .idle) (hrx : s.rx = []) (hhost : s.host = []) (hresets : s.resets = []) :
    step s = .next s := by
  have hselect : select s = .wait := by
    rw [select_eq_selectHost hop hrx]
    simp only [selectHost, hhost]
  simp only [step, sequenceStep, hresets, quietStep, perform, hselect]

/-- Settles O1: the state is `resetCore s`, whose registers are those of the table, and which waits. -/
theorem resetLeavesSpecValues : Obligations.ResetLeavesSpecValues := by
  intro s
  obtain ⟨hphase, htagLen, htagRemain, hleftover, hleftoverLen, hcursor, ⟨hcode, hcat, hoff, hhdr⟩, hpcm, hseg, hframe, hop⟩ :=
    resetCore_afterReset s
  exact ⟨resetCore s, rfl, hphase, htagLen, htagRemain, hleftover, hleftoverLen, hcursor, hcode, hcat, hoff, hhdr, hpcm, hseg, hframe,
    readRegister_ctrl _, hop, fun hrx hhost hresets => step_waits hop hrx hhost hresets⟩

/-! ## A reset input that is there -/

/-- A reset input that is there is taken, and the reset is all that happens (R250). -/
theorem step_resetInput {s : State} {later : List Nat} (hresets : s.resets = 0 :: later) :
    step s = .next (resetCore { s with resets := later }) := by
  simp only [step, sequenceStep, hresets]
  rfl

/-- Settles O3: the step is the reset of the state without the input that is there. -/
theorem resetInputActsAtOnce : Obligations.ResetInputActsAtOnce := by
  intro s later hresets
  exact ⟨step_resetInput hresets, _, step_resetInput hresets, resetCore_afterReset _, rfl, rfl, rfl, rfl, rfl, rfl, rfl⟩

/-! ## No small step looks at the reset inputs to come -/

section
variable (resets : List Nat) (s : State)

theorem beginProcess_resets (c : List Byte) :
    beginProcess c { s with resets := resets } = { beginProcess c s with resets := resets } := by
  simp only [beginProcess]
  split <;> rfl

theorem skipTag_resets (r : Nat) (c : List Byte) :
    skipTag r c { s with resets := resets } = { skipTag r c s with resets := resets } := by
  simp only [skipTag]
  split
  · exact beginProcess_resets resets { s with tagRemain := 0#29, phase := .demux } (c.drop r)
  · rfl

theorem takeTransaction_resets (txn : Txn) :
    takeTransaction txn { s with resets := resets } = { takeTransaction txn s with resets := resets } := by
  cases txn with
  | chunk data =>
    simp only [takeTransaction, takeChunk]
    split
    · rfl
    · rfl
    · split <;> rfl
    · split
      · rfl
      · exact skipTag_resets resets s _ data
    · split
      · rfl
      · exact beginProcess_resets resets s data
  | eos =>
    simp only [takeTransaction, takeEos]
    split
    · rfl
    · rfl
    · rfl
    · split <;> rfl
    · rfl
  | illegal tag =>
    simp only [takeTransaction, takeIllegal]
    split <;> rfl

theorem applyTag_resets (r : Except FaultCode Nat) (c : List Byte) :
    applyTag r c { s with resets := resets } = { applyTag r c s with resets := resets } := by
  cases r with
  | error code => rfl
  | ok len => exact skipTag_resets resets { s with tagLen := BitVec.ofNat 29 len } len c

theorem applyHdr_resets (r : HdrResult) (p : Scan) :
    applyHdr r p { s with resets := resets } = { applyHdr r p s with resets := resets } := by
  cases r <;> rfl

theorem acceptSamples_resets (k : Nat) (d : Dispatching) :
    acceptSamples k d { s with resets := resets } = { acceptSamples k d s with resets := resets } := by
  simp only [acceptSamples]
  split <;> rfl

theorem decStep_resets (d : Dispatching) :
    decStep d { s with resets := resets } = withResets resets (decStep d s) := by
  have hanswer : nextAnswer { s with resets := resets } = nextAnswer s := rfl
  simp only [decStep, hanswer]
  cases nextAnswer s with
  | ok k => exact congrArg _ (acceptSamples_resets resets (dropAnswer (emit (.dec (nextCall d s)) s)) k d)
  | capacity => rfl
  | otherOutcome => rfl
  | wroteBuffer => rfl

theorem interleave_resets (d : Dispatching) :
    interleave d { s with resets := resets } = { interleave d s with resets := resets } := by
  simp only [interleave]
  split <;> rfl

/-- A small step does the same whatever reset inputs are to come, and leaves them (R250). -/
theorem advance_resets : advance { s with resets := resets } = withResets resets (advance s) := by
  simp only [advance]
  split
  · rfl
  · exact congrArg _ (takeTransaction_resets resets s _)
  · rfl
  · rfl
  · exact congrArg _ (applyTag_resets resets s _ _)
  · exact congrArg _ (applyHdr_resets resets s _ _)
  · split
    · exact decStep_resets resets s _
    · exact congrArg _ (interleave_resets resets s _)
  · rfl
  · rfl

end

/-! ## A transaction that a reset input abandons -/

/-- One step, then the rest. -/
theorem steps_succ (n : Nat) {s t : State} (h : step s = .next t) : steps (n + 1) s = steps n t := by
  simp only [steps, h]

/-- A transaction that is still in progress after a small step and others was in progress before them. -/
theorem drive_succ_inProgress {n : Nat} {s m : State} (h : drive (n + 1) s = .next m) (hm : m.op ≠ .idle) :
    s.op ≠ .idle ∧ ∃ t, advance s = .next t ∧ drive n t = .next m := by
  have hop : s.op ≠ .idle := fun hop => by
    rw [drive_idle _ hop] at h
    cases h
    exact hm hop
  refine ⟨hop, ?_⟩
  cases hadvance : advance s with
  | next t => exact ⟨t, rfl, drive_succ n hop hadvance ▸ h⟩
  | fault r => exact absurd hadvance (advance_not_fault s r)
  | refused r => cases (drive_refused n hop hadvance).symm.trans h

/-- With a reset input to come after `k` waits, `k` small steps of the operation in progress are made, and then the reset acts
(R250). -/
theorem steps_resetToCome {k : Nat} {later : List Nat} {s m : State} (h : drive k s = .next m) (hm : m.op ≠ .idle) :
    steps (k + 1) { s with resets := k :: later } = .next (resetCore { m with resets := later }) := by
  induction k generalizing s with
  | zero =>
    cases h
    exact steps_succ 0 (step_resetInput rfl)
  | succ k ih =>
    obtain ⟨hop, t, hadvance, hdrive⟩ := drive_succ_inProgress h hm
    have hsmall : advance { s with resets := (k + 1) :: later } = .next { t with resets := (k + 1) :: later } := by
      rw [advance_resets, hadvance]
      rfl
    have hstep := step_of_advance (s := { s with resets := (k + 1) :: later }) rfl hop hsmall
    calc steps (k + 2) { s with resets := (k + 1) :: later }
      _ = steps (k + 1) { t with resets := k :: later } := steps_succ _ hstep
      _ = .next (resetCore { m with resets := later }) := ih hdrive

/-- Until a transaction was taken and its first small step made, nothing is on the ports (R60). -/
theorem drive_received_log {k : Nat} {txn : Txn} {s m : State} (h : drive k s = .next m) (hop : s.op = .received txn)
    (hm : m.op ≠ .idle) (hk : k ≤ 1) : m.log = s.log := by
  obtain rfl | rfl : k = 0 ∨ k = 1 := by omega
  · cases h
    rfl
  · obtain ⟨-, t, hadvance, hdrive⟩ := drive_succ_inProgress h hm
    simp only [advance, hop, Host.Outcome.next.injEq] at hadvance
    cases hdrive
    exact hadvance ▸ (takeTransaction_ports txn s).1

/-- Settles O4: a step takes the transaction, `k` steps are its small steps up to `m`, and the last is the reset, which leaves the
ports of `m`. -/
theorem resetAbandonsTransaction : Obligations.ResetAbandonsTransaction := by
  intro s m i txn rest k later hop hphase hresets hdecode htxn hdrive hm
  have htake : step s = .next { s with rx := rest, op := .received txn, resets := k :: later } := by
    rw [step_resetToCome hresets, smallStep_takes hop hphase hdecode htxn]
    rfl
  have hinputs := drive_sameInputs hdrive
  have hafter : AfterReset s (resetCore { m with resets := later }) := by
    have hparams : m.params = s.params := hinputs.params
    simpa only [AfterReset, hparams] using resetCore_afterReset { m with resets := later }
  exact ⟨_, (steps_succ (k + 1) htake).trans (steps_resetToCome hdrive hm), hafter, rfl, rfl, rfl, hinputs.rx, rfl,
    (drive_received_log hdrive rfl hm :)⟩

end Sys2Proof.Machine

/-! SUPPORT. The outcomes of a DEC call that have no meaning in the specification (93 U10, U14). -/

namespace Sys2Proof.Machine

/-- Settles O50: with no reset input to come the step is the DEC call, which reads the engine's next answer. -/
theorem unspecifiedEngineOutcomeRefused : Obligations.UnspecifiedEngineOutcomeRefused := by
  intro s d a rest hop hnext hresets hanswers
  have hanswer : nextAnswer s = a := nextAnswer_cons hanswers
  rw [step_call hresets hop hnext]
  refine ⟨?_, ?_⟩
  · rintro rfl
    exact decStep_otherOutcome hanswer
  · rintro rfl
    exact decStep_wroteBuffer hanswer

end Sys2Proof.Machine
